-- ==== Sys2Proof/Word.lean ====
section
/-! DEFINITION. The word types of the max_31865 framer (spec/00_scope.md R6, R7): every value the block
exchanges, latches or answers is one of these bit vectors. Bit 0 is the least significant bit. -/

namespace Sys2Proof

/-- A byte, the unit of every bus exchange and of every IC register (R6, R36). -/
abbrev Byte := BitVec 8

/-- A register address of the IC, 7 bits, `0x00` to `0x7F` (R30). -/
abbrev Addr := BitVec 7

/-- A 4-bit field of the command word: the operation code or the measurement kind (R52). -/
abbrev Nibble := BitVec 4

/-- One bit: a logic level of a pin, the direction bit, the fault flag. -/
abbrev Bit := BitVec 1

/-- A command word, format CMD24 (R52). -/
abbrev CmdWord := BitVec 24

/-- The two bytes a frame sends, address byte in bits 15 to 8, format WIRE16 (R50). -/
abbrev WireWord := BitVec 16

/-- The data word of a response (R57). -/
abbrev RspData := BitVec 16

/-- The 15-bit raw code (R33, R94). -/
abbrev RawCode := BitVec 15

end Sys2Proof
end

