-- ==== Sys2Proof/Config.lean ====
section
/-! DEFINITION. What is fixed for this hardware (the parameters of spec/00_scope.md R6, in one record, and the
operation codes of spec/30_encoding.md R53) and what is left open to the environment (the free answers of the
agents of R9, as constants with no body). -/

namespace Sys2Proof

/-- The parameters of the block (R6), one field per row of the table that has a value. -/
structure Params where
  /-- `DUMMY_BYTE`, sent during the second exchange of a read frame. -/
  dummyByte : Byte
  /-- `CONFIG_VALUE`, written by INIT and expected on read-back. -/
  configValue : Byte
  /-- `HIGH_THRESHOLD`, written by INIT, most significant byte first. -/
  highThreshold : BitVec 16
  /-- `LOW_THRESHOLD`, written by INIT, most significant byte first. -/
  lowThreshold : BitVec 16
  /-- `TEMP_MUL`, multiplier of the temperature formula. -/
  tempMul : Nat
  /-- `TEMP_SHIFT`, right shift of the temperature formula. -/
  tempShift : Nat
  /-- `TEMP_OFFSET`, subtrahend of the temperature formula. -/
  tempOffset : Nat
  /-- The configuration register (`ADDR_CONFIG_R` is `0x00`, `ADDR_CONFIG_W` is `0x80`; R31). -/
  addrConfig : Addr
  /-- `ADDR_RTD_MSB`. -/
  addrRtdMsb : Addr
  /-- `ADDR_RTD_LSB`. -/
  addrRtdLsb : Addr
  /-- `ADDR_HFT_MSB_R/W`, high fault threshold MSB. -/
  addrHftMsb : Addr
  /-- `ADDR_HFT_LSB_R/W`, high fault threshold LSB. -/
  addrHftLsb : Addr
  /-- `ADDR_LFT_MSB_R/W`, low fault threshold MSB. -/
  addrLftMsb : Addr
  /-- `ADDR_LFT_LSB_R/W`, low fault threshold LSB. -/
  addrLftLsb : Addr
  /-- `ADDR_FAULT_STATUS`. -/
  addrFaultStatus : Addr
  deriving DecidableEq, Repr

/-- The values this hardware takes (R6). -/
def params : Params where
  dummyByte := 0xFF#8
  configValue := 0x80#8
  highThreshold := 0xFFFF#16
  lowThreshold := 0x0000#16
  tempMul := 10
  tempShift := 5
  tempOffset := 2560
  addrConfig := 0x00#7
  addrRtdMsb := 0x01#7
  addrRtdLsb := 0x02#7
  addrHftMsb := 0x03#7
  addrHftLsb := 0x04#7
  addrLftMsb := 0x05#7
  addrLftLsb := 0x06#7
  addrFaultStatus := 0x07#7

/-- Operation code of RDREG (R53). -/
abbrev Config.opRdreg : Nibble := 0x1#4
/-- Operation code of WRREG (R53). -/
abbrev Config.opWrreg : Nibble := 0x2#4
/-- Operation code of INIT (R53). -/
abbrev Config.opInit : Nibble := 0x3#4
/-- Operation code of HASFLT (R53). -/
abbrev Config.opHasflt : Nibble := 0x4#4
/-- Operation code of RDMEAS (R53). -/
abbrev Config.opRdmeas : Nibble := 0x5#4

/-- Kind RawCode (R54). -/
abbrev Config.kindRaw : Nibble := 0x0#4
/-- Kind Temperature (R54). -/
abbrev Config.kindTemp : Nibble := 0x1#4

/-- What the caller and the reset line present to the block during one step of the machine: the level of `rst`
(R140) and the command word on the port, `none` standing for `cmd_valid == 0` (R112). -/
structure CallerInput where
  /-- `rst`: a synchronous reset is requested. -/
  rst : Bool
  /-- `cmd_valid` and `cmd`: the command word presented, if one is. -/
  cmd : Option CmdWord
  deriving DecidableEq, Repr, Inhabited

/-- FREE VALUE (notes/assumptions/1.md). What the caller presents at its n-th step when the script in State gives
nothing: any command word, none, or a reset (R9, the caller's row). No body: nothing can be proved of it. -/
opaque Config.callerInput : Nat → CallerInput

/-- FREE VALUE (notes/assumptions/1.md). The n-th sample of the exchange port when the script in State gives
nothing: `some rx` says the exchange has completed with the byte `rx`, `none` says it has not completed (R9, R34:
any of the 256 byte values, or no answer for as long as it likes). No body: nothing can be proved of it. -/
opaque Config.busAnswer : Nat → Option Byte

/-- FREE VALUE (notes/assumptions/1.md). The level of the n-th data-ready sample when the script in State gives
nothing (R9: "a draw: 0 or 1, free at each sample"). No body: nothing can be proved of it. -/
opaque Config.readyLevel : Nat → Bit

end Sys2Proof
end

