-- ==== Sys2Proof/Syntax.lean ====
section
/-! DEFINITION. The instructions: one constructor per row of spec/opcode_table.json. The five operations of
spec/30_encoding.md R53 and the two pseudo-instructions of R58 are commands (format CMD24, R52); the two frame
shapes (format WIRE16, R50) are the bus transactions the block performs inside its operations. A command keeps
EVERY field of its word, the ignored ones too (R55): the block latches them all on acceptance (R112), so none
may be lost in decoding. -/

namespace Sys2Proof

/-- One instruction. Of a command's fields, `kind` is `cmd[19:16]`, `ign` is `cmd[15]`, `addr` is `cmd[14:8]` and
`wdata` is `cmd[7:0]` (R52). -/
inductive Instr where
  /-- RDREG, read the register `addr` (R70). -/
  | rdreg (kind : Nibble) (ign : Bit) (addr : Addr) (wdata : Byte)
  /-- WRREG, write `wdata` to the register `addr` (R71). -/
  | wrreg (kind : Nibble) (ign : Bit) (addr : Addr) (wdata : Byte)
  /-- INIT, configure the IC and verify the link (R80). -/
  | init (kind : Nibble) (ign : Bit) (addr : Addr) (wdata : Byte)
  /-- HASFLT, read the fault flag (R85). -/
  | hasflt (kind : Nibble) (ign : Bit) (addr : Addr) (wdata : Byte)
  /-- RDMEAS, measure, with the kind given (R90). -/
  | rdmeas (kind : Nibble) (ign : Bit) (addr : Addr) (wdata : Byte)
  /-- RDRAW, RDMEAS with kind RawCode (R58, R90). -/
  | rdraw (ign : Bit) (addr : Addr) (wdata : Byte)
  /-- RDTEMP, RDMEAS with kind Temperature (R58, R90). -/
  | rdtemp (ign : Bit) (addr : Addr) (wdata : Byte)
  /-- RD_FRAME, the read frame of `MemRead(a, 1)` (R50, R62). -/
  | rdFrame (a : Addr)
  /-- WR_FRAME, the write frame of `MemWrite(a, 1, d)` (R50, R63). -/
  | wrFrame (a : Addr) (d : Byte)
  deriving DecidableEq, Repr

/-- The command a pseudo-instruction expands to (R58): RDRAW is RDMEAS RAW, RDTEMP is RDMEAS TEMP. -/
def Instr.expand : Instr → Instr
  | .rdraw ign addr wdata => .rdmeas 0x0#4 ign addr wdata
  | .rdtemp ign addr wdata => .rdmeas 0x1#4 ign addr wdata
  | .rdreg kind ign addr wdata => .rdreg kind ign addr wdata
  | .wrreg kind ign addr wdata => .wrreg kind ign addr wdata
  | .init kind ign addr wdata => .init kind ign addr wdata
  | .hasflt kind ign addr wdata => .hasflt kind ign addr wdata
  | .rdmeas kind ign addr wdata => .rdmeas kind ign addr wdata
  | .rdFrame a => .rdFrame a
  | .wrFrame a d => .wrFrame a d

end Sys2Proof
end

