-- ==== Sys2Proof/WellFormed.lean ====
section
/-! DEFINITION. The checks on an instruction as syntax. Field widths are carried by the types, so two checks are
left: that a term is the one the decoder gives its word (`Instr.wf`), and that a command is in the canonical form
of spec/30_encoding.md R55 (`Instr.canonical`). -/

namespace Sys2Proof

/-- The term is the decoder's own name of its word. A command word with `op = 0x5` and kind 0 or 1 is named by the
table's narrower rows RDRAW and RDTEMP (R58), so the spelling RDMEAS of those two kinds is refused HERE; its
MEANING is not affected: `exec` gives `.rdmeas 0` and `.rdmeas 1` the effect R90 gives them. -/
def Instr.wf : Instr → Bool
  | .rdmeas kind _ _ _ => kind != Config.kindRaw && kind != Config.kindTemp
  | .rdreg _ _ _ _ => true
  | .wrreg _ _ _ _ => true
  | .init _ _ _ _ => true
  | .hasflt _ _ _ _ => true
  | .rdraw _ _ _ => true
  | .rdtemp _ _ _ => true
  | .rdFrame _ => true
  | .wrFrame _ _ => true

/-- The canonical form of a command: every ignored field is zero (R55). A frame has no ignored field (R50). -/
def Instr.canonical : Instr → Bool
  | .rdreg kind ign _ wdata => kind == 0 && ign == 0 && wdata == 0
  | .wrreg kind ign _ _ => kind == 0 && ign == 0
  | .init kind ign addr wdata => kind == 0 && ign == 0 && addr == 0 && wdata == 0
  | .hasflt kind ign addr wdata => kind == 0 && ign == 0 && addr == 0 && wdata == 0
  | .rdmeas _ ign addr wdata => ign == 0 && addr == 0 && wdata == 0
  | .rdraw ign addr wdata => ign == 0 && addr == 0 && wdata == 0
  | .rdtemp ign addr wdata => ign == 0 && addr == 0 && wdata == 0
  | .rdFrame _ => true
  | .wrFrame _ _ => true

end Sys2Proof
end

