-- ==== Sys2Proof/Decode.lean ====
section
/-! DEFINITION. Decoding and encoding (spec/30_encoding.md R50 to R56). Two formats exist: the 24-bit command word
CMD24 (R52) and the 16 sent bits of a frame WIRE16 (R50). The decoder is total: what names no instruction is
rejected by name. -/

namespace Sys2Proof

/-- An encoded instruction: a command word or the two bytes of a frame. -/
inductive Code where
  /-- A word on the `cmd` port, format CMD24 (R52). -/
  | cmd (w : CmdWord)
  /-- The two sent bytes of a frame, format WIRE16 (R50). -/
  | wire (w : WireWord)
  deriving DecidableEq, Repr

/-- Why a code names no instruction. -/
inductive DecodeError where
  /-- The operation code is reserved: `0x0` or `0x6` to `0xF` (R56). -/
  | reservedOp (op : Nibble)
  /-- The direction bit says read and the second byte is not the dummy byte: no such frame (R50). -/
  | noSuchFrame (d : Byte)
  deriving DecidableEq, Repr

/-- The `op` field, `cmd[23:20]` (R52). -/
def cmdOp (w : CmdWord) : Nibble := w.extractLsb' 20 4
/-- The `kind` field, `cmd[19:16]` (R52). -/
def cmdKind (w : CmdWord) : Nibble := w.extractLsb' 16 4
/-- The ignored bit, `cmd[15]` (R52, R55). -/
def cmdIgn (w : CmdWord) : Bit := w.extractLsb' 15 1
/-- The `addr` field, `cmd[14:8]` (R52). -/
def cmdAddr (w : CmdWord) : Addr := w.extractLsb' 8 7
/-- The `wdata` field, `cmd[7:0]` (R52). -/
def cmdWdata (w : CmdWord) : Byte := w.extractLsb' 0 8

/-- The `dir` field of a frame, bit 15 (R50). -/
def wireDir (w : WireWord) : Bit := w.extractLsb' 15 1
/-- The `a` field of a frame, bits 14 to 8 (R50). -/
def wireAddr (w : WireWord) : Addr := w.extractLsb' 8 7
/-- The `d` field of a frame, bits 7 to 0 (R50). -/
def wireData (w : WireWord) : Byte := w.extractLsb' 0 8

/-- The instruction a command word names (R53). Of the rows that match a word, the narrowest is the one named: a word
of RDMEAS with kind 0 or 1 is RDRAW or RDTEMP (R58). -/
def decodeCmd (w : CmdWord) : Except DecodeError Instr :=
  let kind := cmdKind w
  let ign := cmdIgn w
  let addr := cmdAddr w
  let wdata := cmdWdata w
  if cmdOp w = Config.opRdreg then .ok (.rdreg kind ign addr wdata)
  else if cmdOp w = Config.opWrreg then .ok (.wrreg kind ign addr wdata)
  else if cmdOp w = Config.opInit then .ok (.init kind ign addr wdata)
  else if cmdOp w = Config.opHasflt then .ok (.hasflt kind ign addr wdata)
  else if cmdOp w = Config.opRdmeas then
    if kind = Config.kindRaw then .ok (.rdraw ign addr wdata)
    else if kind = Config.kindTemp then .ok (.rdtemp ign addr wdata)
    else .ok (.rdmeas kind ign addr wdata)
  else .error (.reservedOp (cmdOp w))

/-- The frame two sent bytes make (R50): a write frame, a read frame with the dummy byte, or no frame. -/
def decodeFrame (w : WireWord) : Except DecodeError Instr :=
  if wireDir w = 1#1 then .ok (.wrFrame (wireAddr w) (wireData w))
  else if wireData w = params.dummyByte then .ok (.rdFrame (wireAddr w))
  else .error (.noSuchFrame (wireData w))

/-- The instruction a code names, or why it names none. -/
def decode : Code → Except DecodeError Instr
  | .cmd w => decodeCmd w
  | .wire w => decodeFrame w

/-- A command word from its five fields (R52). -/
def packCmd (op kind : Nibble) (ign : Bit) (addr : Addr) (wdata : Byte) : CmdWord :=
  op ++ kind ++ ign ++ addr ++ wdata

/-- The two sent bytes of a frame from direction, address and second byte (R50, R51). -/
def packWire (dir : Bit) (a : Addr) (d : Byte) : WireWord := dir ++ a ++ d

/-- The code of an instruction (R50, R52, R53, R58). -/
def encode : Instr → Code
  | .rdreg kind ign addr wdata => .cmd (packCmd Config.opRdreg kind ign addr wdata)
  | .wrreg kind ign addr wdata => .cmd (packCmd Config.opWrreg kind ign addr wdata)
  | .init kind ign addr wdata => .cmd (packCmd Config.opInit kind ign addr wdata)
  | .hasflt kind ign addr wdata => .cmd (packCmd Config.opHasflt kind ign addr wdata)
  | .rdmeas kind ign addr wdata => .cmd (packCmd Config.opRdmeas kind ign addr wdata)
  | .rdraw ign addr wdata => .cmd (packCmd Config.opRdmeas Config.kindRaw ign addr wdata)
  | .rdtemp ign addr wdata => .cmd (packCmd Config.opRdmeas Config.kindTemp ign addr wdata)
  | .rdFrame a => .wire (packWire 0#1 a params.dummyByte)
  | .wrFrame a d => .wire (packWire 1#1 a d)

/-- The code whose bits are `w`, as spec/opcode_table.json numbers them: rows of 24 bits are commands, rows of 16
bits are frames; the table has no other width. -/
def tableCode (nbits w : Nat) : Option Code :=
  match nbits with
  | 24 => if w < 2 ^ 24 then some (.cmd (BitVec.ofNat 24 w)) else none
  | 16 => if w < 2 ^ 16 then some (.wire (BitVec.ofNat 16 w)) else none
  | _ => none

/-- The instruction the decoder reads from the `nbits` bits `w`, numbered as the opcode table numbers them. -/
def decodeTableWord (nbits w : Nat) : Option Instr :=
  match tableCode nbits w with
  | none => none
  | some c =>
    match decode c with
    | .ok i => some i
    | .error _ => none

/-! The decoding of each row, on a word whose bits are written out from the row's own encoding in the spec. -/

/-- `RDREG 0x07` is `0x100700` (R70's example). -/
theorem decodeCmd_rdreg_example : decodeCmd 0x100700#24 = .ok (.rdreg 0 0 0x07 0x00) := by decide
/-- `WRREG 0x03, 0xFF` is `0x2003FF` (R71's example). -/
theorem decodeCmd_wrreg_example : decodeCmd 0x2003FF#24 = .ok (.wrreg 0 0 0x03 0xFF) := by decide
/-- INIT with every ignored field set, `0x3FFFFF` (spec/95_test_vectors.md 3.2). -/
theorem decodeCmd_init_example : decodeCmd 0x3FFFFF#24 = .ok (.init 0xF 1 0x7F 0xFF) := by decide
/-- HASFLT is `0x400000` (R85). -/
theorem decodeCmd_hasflt_example : decodeCmd 0x400000#24 = .ok (.hasflt 0 0 0 0) := by decide
/-- `RDMEAS #15` is `0x5F0000` (R58). -/
theorem decodeCmd_rdmeas_example : decodeCmd 0x5F0000#24 = .ok (.rdmeas 0xF 0 0 0) := by decide
/-- RDRAW is `0x500000` (R58). -/
theorem decodeCmd_rdraw_example : decodeCmd 0x500000#24 = .ok (.rdraw 0 0 0) := by decide
/-- RDTEMP is `0x510000`; `0x51FFFF` has every ignored field set (spec/95_test_vectors.md 2.3). -/
theorem decodeCmd_rdtemp_example : decodeCmd 0x51FFFF#24 = .ok (.rdtemp 1 0x7F 0xFF) := by decide
/-- The read frame of the register `0x02` sends `0x02`, `0xFF` (R50, R85). -/
theorem decodeFrame_rdFrame_example : decodeFrame 0b0000001011111111#16 = .ok (.rdFrame 0x02) := by decide
/-- The write frame of `0x80` to the configuration register sends `0x80`, `0x80` (R50, R80). -/
theorem decodeFrame_wrFrame_example : decodeFrame 0b1000000010000000#16 = .ok (.wrFrame 0x00 0x80) := by decide

end Sys2Proof
end

