-- ==== Sys2Proof/Machine/State.lean ====
section
/-! DEFINITION. The state of the machine as plain data. `Regs` is everything spec/10_state.md gives the block (R12,
R13, R20); `Env` is the environment of spec/00_scope.md R9 as data the step reads; `trace` is the event list of the
operation in progress or last ended (R8). The IC and its registers are no state of the block (R4, R23, R34). -/

namespace Sys2Proof.Machine

/-- The sequencer states (R14). Code 15 is unused and has no constructor (R121). -/
inductive SeqState where
  | idle | rdreg | wrreg | initCW | initCR | initHM | initHL | initLM | initLL | hasflt
  | measChk | measLsb | measMsb | measFlt | measDec
  deriving DecidableEq, Repr

/-- The frame phases (R15). Codes 5, 6, 7 are unused and have no constructor (R121). -/
inductive FramePhase where
  | idle | select | addr | data | release
  deriving DecidableEq, Repr

/-- The statuses of a response, exactly six (R57, R130). -/
inductive Status where
  | ok | notReady | fault | invalidKind | linkFail | badOp
  deriving DecidableEq, Repr

/-- An event at the interface of the block (R8). -/
inductive Event where
  /-- `CsLow`: chip-select is asserted. -/
  | csLow
  /-- `X(tx, rx)`: a completed byte exchange that sent `tx` and received `rx`. -/
  | x (tx rx : Byte)
  /-- `CsHigh`: chip-select is deasserted. -/
  | csHigh
  /-- `D(level)`: a data-ready sample that saw `level`. -/
  | d (level : Bit)
  /-- `Rsp(status, data)`: a response. -/
  | rsp (status : Status) (data : RspData)
  deriving DecidableEq, Repr

/-- Every register of the block: the sequencer state `pc = (seq, fe)` (R13), the seven data registers (R12) and
the three response registers (R20). -/
structure Regs where
  /-- `seq`, the operation step in progress. -/
  seq : SeqState
  /-- `fe`, the frame phase in progress. -/
  fe : FramePhase
  /-- `OP`, `cmd[23:20]` of the command accepted last. -/
  op : Nibble
  /-- `KIND`, `cmd[19:16]` of the command accepted last. -/
  kind : Nibble
  /-- `ADDR`, `cmd[14:8]` of the command accepted last. -/
  addr : Addr
  /-- `WDATA`, `cmd[7:0]` of the command accepted last. -/
  wdata : Byte
  /-- `RX`, the byte received during the second exchange of the last frame. -/
  rx : Byte
  /-- `LSB`, the RTD LSB byte. -/
  lsb : Byte
  /-- `MSB`, the RTD MSB byte. -/
  msb : Byte
  /-- `rsp_valid`. -/
  rspValid : Bool
  /-- `rsp_status`. -/
  rspStatus : Status
  /-- `rsp_data`. -/
  rspData : RspData
  deriving DecidableEq, Repr

/-- The environment (R9): for each of the other three agents a script of what it does next, and how many times it has
been asked. Where a script is used up, the agent's free value of Config answers, applied to that count. These
fields are the MODEL's own (notes/assumptions/1.md); the block does not hold them. -/
structure Env where
  /-- What the caller and the reset line present, one entry a step. -/
  caller : List CallerInput
  /-- How many entries of the caller have been used. -/
  callerTick : Nat
  /-- The samples of the exchange port, in order: `some rx` completes the exchange requested, `none` does not. -/
  answers : List (Option Byte)
  /-- How many samples of the exchange port have been taken. -/
  answerTick : Nat
  /-- The levels of `drdy_n`, one a sample. -/
  levels : List Bit
  /-- How many data-ready samples have been taken. -/
  levelTick : Nat
  deriving DecidableEq, Repr

/-- The state: the block's registers, the environment, and the trace of the operation in progress or last ended. -/
structure State where
  /-- The block's registers. -/
  regs : Regs
  /-- What the other agents do. The model's own. -/
  env : Env
  /-- The events of the operation accepted last, in order (R8). The model's own: no operation reads it. -/
  trace : List Event
  deriving DecidableEq, Repr

/-- The register values after reset (R24, R140). -/
def Regs.reset : Regs where
  seq := .idle
  fe := .idle
  op := 0x0#4
  kind := 0x0#4
  addr := 0x00#7
  wdata := 0x00#8
  rx := 0x00#8
  lsb := 0x00#8
  msb := 0x00#8
  rspValid := false
  rspStatus := .ok
  rspData := 0x0000#16

/-- The machine right after reset: the registers of R24, no event, nothing scripted. The counts of the environment
start at 0 (DESIGN CHOICE, notes/assumptions/1.md: they only number the free values). -/
def State.reset : State where
  regs := Regs.reset
  env := { caller := [], callerTick := 0, answers := [], answerTick := 0, levels := [], levelTick := 0 }
  trace := []

/-- Why the machine stops. -/
inductive Fault where
  /-- The pair `(seq, fe)` is one R16 excludes, or `S_MEAS_DEC` holds a kind R119 excludes, or a frame is run where
  `seq` runs none: the spec gives such states no step (R121), and no run from reset reaches them. Raised by the
  meanings of all commands, of both frames and by the step of an operation in progress. Safe. -/
  | noTransition
  /-- A frame is begun while another is in progress, which R65 says never happens. Raised by the meanings of RD_FRAME
  and WR_FRAME. Safe. -/
  | frameInProgress
  deriving DecidableEq, Repr

/-- Why the machine refuses. -/
inductive Refusal where
  /-- The instruction has no meaning yet. Raised by an arm of exec, of which this model has none. Safe. -/
  | notModelled (mnemonic : String)
  deriving DecidableEq, Repr

/-- The inputs the cycle-level sequencer samples at one rising edge of `clk` (R17, R110). -/
structure Inputs where
  /-- `rst`. -/
  rst : Bool
  /-- `cmd_valid`. -/
  cmdValid : Bool
  /-- `cmd`. -/
  cmd : CmdWord
  /-- `xfer_done`. -/
  xferDone : Bool
  /-- `xfer_rx`. -/
  xferRx : Byte
  /-- `drdy_n`. -/
  drdyN : Bit
  deriving DecidableEq, Repr

end Sys2Proof.Machine
end

