-- ==== Sys2Proof/Machine/Flags.lean ====
section
/-! DEFINITION. What plays the part of flags (spec/10_state.md R19): the fault flag of an RTD LSB byte (R86, R93) and
the code of a response status (spec/30_encoding.md R57). The block has no condition-code register. -/

namespace Sys2Proof.Machine

/-- The fault flag of an RTD LSB byte, its bit 0 (R86, R93). -/
def faultBit (lsbByte : Byte) : Bit := lsbByte.extractLsb' 0 1

/-- The binary code of a status (R57, R130). -/
def Status.code : Status → BitVec 3
  | .ok => 0#3
  | .notReady => 1#3
  | .fault => 2#3
  | .invalidKind => 3#3
  | .linkFail => 4#3
  | .badOp => 5#3

end Sys2Proof.Machine
end

