-- ==== Sys2Proof/Machine/Operands.lean ====
section
/-! DEFINITION. Operand forms: the address byte of a frame (spec/30_encoding.md R51), the register table of the IC
(spec/20_memory.md R31), the measurement kinds (R54), the bytes of a threshold (R35), and the two bytes each
frame-running sequencer state sends (spec/45_sequencer.md R111). -/

namespace Sys2Proof.Machine

/-- The address byte `dir ‖ a` (R51). -/
def addressByte (dir : Bit) (a : Addr) : Byte := dir ++ a

/-- The named registers of the IC (R31). -/
inductive IcReg where
  | config | rtdMsb | rtdLsb | hftMsb | hftLsb | lftMsb | lftLsb | faultStatus
  deriving DecidableEq, Repr

/-- The 7-bit address of a named register (R31). -/
def IcReg.address : IcReg → Addr
  | .config => params.addrConfig
  | .rtdMsb => params.addrRtdMsb
  | .rtdLsb => params.addrRtdLsb
  | .hftMsb => params.addrHftMsb
  | .hftLsb => params.addrHftLsb
  | .lftMsb => params.addrLftMsb
  | .lftLsb => params.addrLftLsb
  | .faultStatus => params.addrFaultStatus

/-- The read address byte of the table (R31). -/
def IcReg.readByte : IcReg → Byte
  | .config => 0x00#8
  | .rtdMsb => 0x01#8
  | .rtdLsb => 0x02#8
  | .hftMsb => 0x03#8
  | .hftLsb => 0x04#8
  | .lftMsb => 0x05#8
  | .lftLsb => 0x06#8
  | .faultStatus => 0x07#8

/-- The write address byte of the table; three registers have none (R31). -/
def IcReg.writeByte : IcReg → Option Byte
  | .config => some 0x80#8
  | .rtdMsb => none
  | .rtdLsb => none
  | .hftMsb => some 0x83#8
  | .hftLsb => some 0x84#8
  | .lftMsb => some 0x85#8
  | .lftLsb => some 0x86#8
  | .faultStatus => none

/-- The kind is RawCode or Temperature (R54). -/
def kindRecognised (kind : Nibble) : Bool := kind == Config.kindRaw || kind == Config.kindTemp

/-- The most significant byte of a threshold (R35 b). -/
def thresholdMsb (v : BitVec 16) : Byte := v.extractLsb' 8 8

/-- The least significant byte of a threshold (R35 b). -/
def thresholdLsb (v : BitVec 16) : Byte := v.extractLsb' 0 8

/-- The sequencer state runs a frame (R14, last column). -/
def SeqState.runsFrame : SeqState → Bool
  | .idle => false
  | .rdreg => true
  | .wrreg => true
  | .initCW => true
  | .initCR => true
  | .initHM => true
  | .initHL => true
  | .initLM => true
  | .initLL => true
  | .hasflt => true
  | .measChk => false
  | .measLsb => true
  | .measMsb => true
  | .measFlt => false
  | .measDec => false

/-- The binary code of a sequencer state (R14). -/
def SeqState.code : SeqState → BitVec 4
  | .idle => 0#4
  | .rdreg => 1#4
  | .wrreg => 2#4
  | .initCW => 3#4
  | .initCR => 4#4
  | .initHM => 5#4
  | .initHL => 6#4
  | .initLM => 7#4
  | .initLL => 8#4
  | .hasflt => 9#4
  | .measChk => 10#4
  | .measLsb => 11#4
  | .measMsb => 12#4
  | .measFlt => 13#4
  | .measDec => 14#4

/-- The binary code of a frame phase (R15). -/
def FramePhase.code : FramePhase → BitVec 3
  | .idle => 0#3
  | .select => 1#3
  | .addr => 2#3
  | .data => 3#3
  | .release => 4#3

/-- `ABYTE(seq)`, the address byte of the frame the state runs (R111). A state that runs no frame sends none; the
value there is not used. -/
def Regs.abyte (r : Regs) : Byte :=
  match r.seq with
  | .rdreg => addressByte 0#1 r.addr
  | .wrreg => addressByte 1#1 r.addr
  | .initCW => 0x80#8
  | .initCR => 0x00#8
  | .initHM => 0x83#8
  | .initHL => 0x84#8
  | .initLM => 0x85#8
  | .initLL => 0x86#8
  | .hasflt => 0x02#8
  | .measLsb => 0x02#8
  | .measMsb => 0x01#8
  | .idle => 0x00#8
  | .measChk => 0x00#8
  | .measFlt => 0x00#8
  | .measDec => 0x00#8

/-- `DBYTE(seq)`, the second byte of the frame the state runs (R111). -/
def Regs.dbyte (r : Regs) : Byte :=
  match r.seq with
  | .rdreg => params.dummyByte
  | .wrreg => r.wdata
  | .initCW => params.configValue
  | .initCR => params.dummyByte
  | .initHM => thresholdMsb params.highThreshold
  | .initHL => thresholdLsb params.highThreshold
  | .initLM => thresholdMsb params.lowThreshold
  | .initLL => thresholdLsb params.lowThreshold
  | .hasflt => params.dummyByte
  | .measLsb => params.dummyByte
  | .measMsb => params.dummyByte
  | .idle => 0x00#8
  | .measChk => 0x00#8
  | .measFlt => 0x00#8
  | .measDec => 0x00#8

/-- The frame the state runs, as the WIRE16 word of its two sent bytes (R50, R111). -/
def Regs.wireWord (r : Regs) : WireWord := r.abyte ++ r.dbyte

end Sys2Proof.Machine
end

