-- ==== Sys2Proof/Machine/Ops.lean ====
section
/-! DEFINITION. The named operations every meaning is built from: asking the environment, one byte exchange, the frame
with `MemRead` and `MemWrite` (spec/40_bus_transaction.md R60 to R66), accepting a command (spec/45_sequencer.md R112),
ending an operation (`respond` and `raise`, spec/60_exceptions.md R131, R132, which is this block's taking of an
exception) and reset (spec/70_reset_and_hazards.md R140).

An operation runs until it has responded, or until the exchange port is sampled with no completed exchange. In the
second case the frame stays open in `F_ADDR` or `F_DATA` and the next step goes on from there (R64, R151). -/

namespace Sys2Proof.Machine

/-! ### Asking the environment -/

/-- What the caller and the reset line present `k` steps ahead (R9). -/
def Env.callerAt (e : Env) (k : Nat) : CallerInput :=
  match e.caller[k]? with
  | some c => c
  | none => Config.callerInput (e.callerTick + k)

/-- The environment after a step has looked at the caller. -/
def Env.popCaller (e : Env) : Env :=
  { e with caller := e.caller.drop 1, callerTick := e.callerTick + 1 }

/-- The sample of the exchange port that is `k` samples ahead (R9, R34). -/
def Env.answerAt (e : Env) (k : Nat) : Option Byte :=
  match e.answers[k]? with
  | some a => a
  | none => Config.busAnswer (e.answerTick + k)

/-- The environment after `n` samples of the exchange port. -/
def Env.dropAnswers (e : Env) (n : Nat) : Env :=
  { e with answers := e.answers.drop n, answerTick := e.answerTick + n }

/-- The level of `drdy_n` at the sample that is `k` samples ahead (R9, R18). -/
def Env.levelAt (e : Env) (k : Nat) : Bit :=
  match e.levels[k]? with
  | some l => l
  | none => Config.readyLevel (e.levelTick + k)

/-- The environment after a data-ready sample. -/
def Env.popLevel (e : Env) : Env :=
  { e with levels := e.levels.drop 1, levelTick := e.levelTick + 1 }

/-! ### Updates of the state -/

/-- The sequencer moves: `pc <- (seq, fe)` (R13). -/
def State.setPc (s : State) (seq : SeqState) (fe : FramePhase) : State :=
  { s with regs := { s.regs with seq := seq, fe := fe } }

/-- The frame phase moves within a frame. -/
def State.setFe (s : State) (fe : FramePhase) : State :=
  { s with regs := { s.regs with fe := fe } }

/-- `x[RX] <- b` (R115). -/
def State.setRx (s : State) (b : Byte) : State :=
  { s with regs := { s.regs with rx := b } }

/-- `x[LSB] <- b` (R116). -/
def State.setLsb (s : State) (b : Byte) : State :=
  { s with regs := { s.regs with lsb := b } }

/-- `x[MSB] <- b` (R116). -/
def State.setMsb (s : State) (b : Byte) : State :=
  { s with regs := { s.regs with msb := b } }

/-- An event happens: it is appended to the trace of the operation (R8). -/
def State.log (s : State) (e : Event) : State :=
  { s with trace := s.trace ++ [e] }

/-- `rsp_valid <- 0`, as at every edge at which no `respond` executes (R120). -/
def State.quiet (s : State) : State :=
  { s with regs := { s.regs with rspValid := false } }

/-- The environment moves on. -/
def State.setEnv (s : State) (e : Env) : State :=
  { s with env := e }

/-- The fields of the accepted command word are latched and the trace of the new operation begins (R112, R8). -/
def State.latch (s : State) (op kind : Nibble) (addr : Addr) (wdata : Byte) : State :=
  { s with regs := { s.regs with op := op, kind := kind, addr := addr, wdata := wdata }, trace := [] }

/-! ### Ending an operation -/

/-- `respond(status, data)`, the one way an operation ends (R131): the response registers take the status and the
data, `rsp_valid` goes high, the block is idle again, and the event `Rsp(status, data)` happens. -/
def State.respond (s : State) (status : Status) (data : RspData) : State :=
  { s with
    regs := { s.regs with
      seq := .idle, fe := .idle, rspValid := true, rspStatus := status, rspData := data }
    trace := s.trace ++ [.rsp status data] }

/-- `raise <Status>()`: the operation ends with a condition and data zero (R132, R134). Nothing is saved, no mode
changes and control goes nowhere but to idle; the return from it is the acceptance of the next command (R135). -/
def State.raise (s : State) (status : Status) : State := s.respond status 0x0000#16

/-- Reset (R140): every register takes its reset value, with no event and no response. The operation in progress, if
any, is abandoned with its trace (R141). The environment is not reset by the block (R142). -/
def State.resetBlock (s : State) : State :=
  { s with regs := Regs.reset, trace := [] }

/-! ### The frame -/

/-- `start(S)`: the sequencer enters the frame-running state `seq` with chip-select asserted, the event `CsLow`
(R112, R113). -/
def State.start (s : State) (seq : SeqState) : State := (s.setPc seq .select).log .csLow

/-- The second exchange of a frame (R115): if the exchange is seen complete, `RX` takes the received byte and
chip-select is deasserted; otherwise the frame waits in `F_DATA`. -/
def State.frameData (s : State) (db : Byte) : State :=
  match s.env.answerAt 0 with
  | some rx =>
    ((((s.setEnv (s.env.dropAnswers 1)).log (.x db rx)).setRx rx).setFe .release).log .csHigh
  | none => s.setEnv (s.env.dropAnswers 1)

/-- The first exchange of a frame (R114): if it is seen complete its byte is discarded and the second exchange
follows; otherwise the frame waits in `F_ADDR`. -/
def State.frameAddr (s : State) (ab db : Byte) : State :=
  match s.env.answerAt 0 with
  | some rx => (((s.setEnv (s.env.dropAnswers 1)).log (.x ab rx)).setFe .data).frameData db
  | none => s.setEnv (s.env.dropAnswers 1)

/-- The rest of a frame once chip-select is asserted (R113 to R115). -/
def State.frameSelected (s : State) (ab db : Byte) : State := (s.setFe .addr).frameAddr ab db

/-- `Frame(ab, db)` (R60), run in the sequencer state `seq`. The byte received during the second exchange is left in
`RX`. The frame has ended when `fe` is `F_RELEASE`. -/
def State.frame (s : State) (seq : SeqState) (ab db : Byte) : State := (s.start seq).frameSelected ab db

/-- `MemRead(a, 1)`, a read frame (R62), run in the sequencer state `seq`. -/
def State.memRead (s : State) (seq : SeqState) (a : Addr) : State :=
  s.frame seq (addressByte 0#1 a) params.dummyByte

/-- `MemWrite(a, 1, v)`, a write frame (R63), run in the sequencer state `seq`. -/
def State.memWrite (s : State) (seq : SeqState) (a : Addr) (v : Byte) : State :=
  s.frame seq (addressByte 1#1 a) v

/-- The operation goes on with `k` once the frame in progress has ended; while it has not, nothing more happens. -/
def State.afterFrame (s : State) (k : State → State) : State :=
  match s.regs.fe with
  | .release => k s
  | .idle => s
  | .select => s
  | .addr => s
  | .data => s

/-! ### Accepting a command -/

/-- A command is accepted (R112): its fields are latched and the operation `run` begins. The block accepts only when
idle; a command presented while an operation is in progress is ignored, nothing is latched and nothing queued
(R153). A state with `S_IDLE` inside a frame is one R16 excludes (R121). -/
def accept (op kind : Nibble) (addr : Addr) (wdata : Byte) (run : State → State) (s : State) :
    Host.Outcome State Fault Refusal :=
  match s.regs.seq, s.regs.fe with
  | .idle, .idle => .next (run ((s.latch op kind addr wdata).quiet))
  | .idle, _ => .fault .noTransition
  | _, _ => .next s

end Sys2Proof.Machine
end

