-- ==== Sys2Proof/Machine/BusTransaction.lean ====
section
/-! DEFINITION. The Bus Transaction Layer (spec/40_bus_transaction.md): RDREG (R70), WRREG (R71), and the two frame
shapes RD_FRAME (R62) and WR_FRAME (R63). -/

namespace Sys2Proof.Machine

/-- RDREG once its frame has ended: the byte read is the response (R70). -/
def finishRdreg (s : State) : State := s.respond .ok (s.regs.rx.setWidth 16)

/-- RDREG (R70): one read frame to `addr`, then `respond(OK, zext_16(b))`. `kind`, bit 15 and `wdata` are latched
(R112) and otherwise ignored. -/
def execRdreg (kind : Nibble) (_ign : Bit) (addr : Addr) (wdata : Byte) (s : State) :
    Host.Outcome State Fault Refusal :=
  accept Config.opRdreg kind addr wdata (fun s => (s.memRead .rdreg addr).afterFrame finishRdreg) s

/-- WRREG once its frame has ended (R71). -/
def finishWrreg (s : State) : State := s.respond .ok 0x0000#16

/-- WRREG (R71): one write frame of `wdata` to `addr`, then `respond(OK, 0x0000)`. `kind` and bit 15 are latched
(R112) and otherwise ignored. -/
def execWrreg (kind : Nibble) (_ign : Bit) (addr : Addr) (wdata : Byte) (s : State) :
    Host.Outcome State Fault Refusal :=
  accept Config.opWrreg kind addr wdata (fun s => (s.memWrite .wrreg addr wdata).afterFrame finishWrreg) s

/-- A frame of the given bytes within the operation in progress. A frame is run only in a frame-running state of the
sequencer (R16). With chip-select already asserted for it (`F_SELECT`) its two exchanges follow; with the frame
before it ended (`F_RELEASE`) chip-select is asserted first. No frame begins while another is in progress (R65).

DESIGN CHOICE (notes/assumptions/7.md): the bytes run are the instruction's own. Where they are not those R111 gives for
the current `seq` (at `F_SELECT`), or a further frame is run in that `seq` (at `F_RELEASE`), the spec gives no such case,
and the step never makes it. If an exchange is then not complete, the frame waits, and the next step goes on with the
bytes of `seq`, not with the instruction's. -/
def runFrame (ab db : Byte) (s : State) : Host.Outcome State Fault Refusal :=
  match s.regs.seq.runsFrame, s.regs.fe with
  | true, .select => .next (s.quiet.frameSelected ab db)
  | true, .release => .next (s.quiet.frame s.regs.seq ab db)
  | true, .addr => .fault .frameInProgress
  | true, .data => .fault .frameInProgress
  | true, .idle => .fault .noTransition
  | false, _ => .fault .noTransition

/-- RD_FRAME (R50, R62): the two bytes `0 ‖ a` and the dummy byte; `RX` takes the byte received with the second. -/
def execRdFrame (a : Addr) (s : State) : Host.Outcome State Fault Refusal :=
  runFrame (addressByte 0#1 a) params.dummyByte s

/-- WR_FRAME (R50, R63): the two bytes `1 ‖ a` and `d`; `RX` takes the byte received with the second, which nothing
uses (R115). -/
def execWrFrame (a : Addr) (d : Byte) (s : State) : Host.Outcome State Fault Refusal :=
  runFrame (addressByte 1#1 a) d s

end Sys2Proof.Machine
end

