-- ==== Sys2Proof/Machine/FaultCheck.lean ====
section
/-! DEFINITION. Fault Check (spec/42_fault_check.md): HASFLT (R85). -/

namespace Sys2Proof.Machine

/-- HASFLT once its frame has ended: the fault flag is the response (R85, R86). -/
def finishHasflt (s : State) : State := s.respond .ok ((faultBit s.regs.rx).setWidth 16)

/-- HASFLT (R85): one read frame to the RTD LSB register, then `respond(OK, zext_16(l[0]))`. The data-ready input is not
sampled (R87). All fields but `op` are latched (R112) and otherwise ignored. -/
def execHasflt (kind : Nibble) (_ign : Bit) (addr : Addr) (wdata : Byte) (s : State) :
    Host.Outcome State Fault Refusal :=
  accept Config.opHasflt kind addr wdata
    (fun s => (s.memRead .hasflt params.addrRtdLsb).afterFrame finishHasflt) s

end Sys2Proof.Machine
end

