-- ==== Sys2Proof/Machine/Init.lean ====
section
/-! DEFINITION. Initialization and Link Verification (spec/41_init.md): INIT (R80). Its six frames are written one
definition each, from the last to the first, so that an operation that waited for the bus goes on at the frame it
had reached. -/

namespace Sys2Proof.Machine

/-- After frame 6 (low threshold LSB): the link is verified and the thresholds are written, `respond(OK, 0x0001)`. -/
def afterInitLL (s : State) : State := s.respond .ok 0x0001#16

/-- After frame 5: frame 6 writes the low threshold LSB (R80). -/
def afterInitLM (s : State) : State :=
  (s.memWrite .initLL params.addrLftLsb (thresholdLsb params.lowThreshold)).afterFrame afterInitLL

/-- After frame 4: frame 5 writes the low threshold MSB (R80). -/
def afterInitHL (s : State) : State :=
  (s.memWrite .initLM params.addrLftMsb (thresholdMsb params.lowThreshold)).afterFrame afterInitLM

/-- After frame 3: frame 4 writes the high threshold LSB (R80). -/
def afterInitHM (s : State) : State :=
  (s.memWrite .initHL params.addrHftLsb (thresholdLsb params.highThreshold)).afterFrame afterInitHL

/-- After frame 2, the read-back: equal to the byte written, frame 3 writes the high threshold MSB; anything else is a
link-verification failure and no threshold frame is sent (R80 to R82). -/
def afterInitCR (s : State) : State :=
  if s.regs.rx = params.configValue then
    (s.memWrite .initHM params.addrHftMsb (thresholdMsb params.highThreshold)).afterFrame afterInitHM
  else s.raise .linkFail

/-- After frame 1, the configuration write: frame 2 reads the register back (R80). -/
def afterInitCW (s : State) : State :=
  (s.memRead .initCR params.addrConfig).afterFrame afterInitCR

/-- INIT (R80): frame 1 writes the configuration byte, the rest follows. All fields but `op` are latched (R112) and
otherwise ignored. -/
def execInit (kind : Nibble) (_ign : Bit) (addr : Addr) (wdata : Byte) (s : State) :
    Host.Outcome State Fault Refusal :=
  accept Config.opInit kind addr wdata
    (fun s => (s.memWrite .initCW params.addrConfig params.configValue).afterFrame afterInitCW) s

end Sys2Proof.Machine
end

