-- ==== Sys2Proof/Machine/Conversion.lean ====
section
/-! DEFINITION. The conversion pipeline (spec/43_measure.md R94 to R97): assembly of the 15-bit raw code and the linear
approximation. The arithmetic is on unbounded integers and narrowed once, at the response. -/

namespace Sys2Proof.Machine

/-- The raw code `msbByte ‖ lsbByte[7:1]` (R94). -/
def rawCode (msbByte lsbByte : Byte) : RawCode := msbByte ++ lsbByte.extractLsb' 1 7

/-- The temperature in tenths of a degree Celsius, `((10 * raw) >> 5) - 2560` (R95). -/
def temperatureTenths (raw : RawCode) : Int :=
  (((params.tempMul * raw.toNat) >>> params.tempShift : Nat) : Int) - (params.tempOffset : Int)

/-- The response data of a raw code, `zext_16(rawCode)` (R94). -/
def rawData (raw : RawCode) : RspData := raw.setWidth 16

/-- The response data of a temperature, `trunc_16(temperatureTenths)` (R95, R96). -/
def temperatureData (raw : RawCode) : RspData := BitVec.ofInt 16 (temperatureTenths raw)

end Sys2Proof.Machine
end

