-- ==== Sys2Proof/Machine/Measure.lean ====
section
/-! DEFINITION. Acquisition and Conversion (spec/43_measure.md): RDMEAS (R90) and its two pseudo-instructions RDRAW and
RDTEMP (spec/30_encoding.md R58). The stages are written from the last to the first. -/

namespace Sys2Proof.Machine

/-- `S_MEAS_DEC`, Decode and Return (R94, R95, R119): the raw code or the temperature is the response. No other kind can
be present here; the spec gives a state with one no transition, so such a state stays where it is. -/
def decodeReturn (s : State) : State :=
  if s.regs.kind = Config.kindRaw then s.respond .ok (rawData (rawCode s.regs.msb s.regs.lsb))
  else if s.regs.kind = Config.kindTemp then s.respond .ok (temperatureData (rawCode s.regs.msb s.regs.lsb))
  else s

/-- `S_MEAS_FLT`, CheckFault (R93, R118): bit 0 of the RTD LSB byte ends the operation with `FAULT`. -/
def checkFault (s : State) : State :=
  if faultBit s.regs.lsb = 1#1 then s.raise .fault
  else decodeReturn (s.setPc .measDec .idle)

/-- After the RTD MSB frame (R116): `MSB` takes the byte, and only now is the fault tested (R101). -/
def afterMeasMsb (s : State) : State := checkFault ((s.setMsb s.regs.rx).setPc .measFlt .idle)

/-- After the RTD LSB frame (R100, R116): `LSB` takes the byte and the RTD MSB register is read. -/
def afterMeasLsb (s : State) : State :=
  ((s.setLsb s.regs.rx).memRead .measMsb params.addrRtdMsb).afterFrame afterMeasMsb

/-- `S_MEAS_CHK`, CheckReady (R92, R117): the data-ready input is sampled once. Level 1 ends the operation with
`NOT_READY` and no frame; level 0 goes on to the RTD LSB frame. -/
def checkReady (s : State) : State :=
  let lvl := s.env.levelAt 0
  let s := (s.setEnv s.env.popLevel).log (.d lvl)
  if lvl = 1#1 then s.raise .notReady
  else (s.memRead .measLsb params.addrRtdLsb).afterFrame afterMeasLsb

/-- The body of RDMEAS (R90, R91): the kind is checked first, before the data-ready sample and before any frame. -/
def startMeasurement (s : State) : State :=
  if kindRecognised s.regs.kind then checkReady (s.setPc .measChk .idle)
  else s.raise .invalidKind

/-- RDMEAS (R90). Bit 15, `addr` and `wdata` are latched (R112) and otherwise ignored. -/
def execRdmeas (kind : Nibble) (_ign : Bit) (addr : Addr) (wdata : Byte) (s : State) :
    Host.Outcome State Fault Refusal :=
  accept Config.opRdmeas kind addr wdata startMeasurement s

/-- RDRAW (R58): RDMEAS with kind RawCode. -/
def execRdraw (_ign : Bit) (addr : Addr) (wdata : Byte) (s : State) : Host.Outcome State Fault Refusal :=
  accept Config.opRdmeas Config.kindRaw addr wdata startMeasurement s

/-- RDTEMP (R58): RDMEAS with kind Temperature. -/
def execRdtemp (_ign : Bit) (addr : Addr) (wdata : Byte) (s : State) : Host.Outcome State Fault Refusal :=
  accept Config.opRdmeas Config.kindTemp addr wdata startMeasurement s

end Sys2Proof.Machine
end

