-- ==== Sys2Proof/Machine/Dispatch.lean ====
section
/-! DEFINITION. The dispatch of instructions to their meanings, one arm per constructor. -/

namespace Sys2Proof.Machine

def exec (i : Instr) (s : State) : Host.Outcome State Fault Refusal :=
  match i with
  | .rdreg kind ign addr wdata => Sys2Proof.Machine.execRdreg kind ign addr wdata s
  | .wrreg kind ign addr wdata => Sys2Proof.Machine.execWrreg kind ign addr wdata s
  | .init kind ign addr wdata => Sys2Proof.Machine.execInit kind ign addr wdata s
  | .hasflt kind ign addr wdata => Sys2Proof.Machine.execHasflt kind ign addr wdata s
  | .rdmeas kind ign addr wdata => Sys2Proof.Machine.execRdmeas kind ign addr wdata s
  | .rdraw ign addr wdata => Sys2Proof.Machine.execRdraw ign addr wdata s
  | .rdtemp ign addr wdata => Sys2Proof.Machine.execRdtemp ign addr wdata s
  | .rdFrame a => Sys2Proof.Machine.execRdFrame a s
  | .wrFrame a d => Sys2Proof.Machine.execWrFrame a d s

end Sys2Proof.Machine
end

