-- ==== Sys2Proof/Machine/Control.lean ====
section
/-! DEFINITION. Control transfer at the transaction level (spec/10_state.md R13 to R16, spec/45_sequencer.md R112 to
R119): what the block does in one step from each value of `pc = (seq, fe)`. Idle, it accepts the command presented and
runs it; in the middle of an operation it goes on with that operation. -/

namespace Sys2Proof.Machine

/-- The `(seq, fe)` pairs R16 allows. -/
def pcLegal (seq : SeqState) (fe : FramePhase) : Bool :=
  match fe with
  | .idle => !seq.runsFrame
  | .select => seq.runsFrame
  | .addr => seq.runsFrame
  | .data => seq.runsFrame
  | .release => seq.runsFrame

/-- A reserved operation code (R56): accepted like any command, and ended at once with `BAD_OP`. -/
def badOp (w : CmdWord) (s : State) : Host.Outcome State Fault Refusal :=
  accept (cmdOp w) (cmdKind w) (cmdAddr w) (cmdWdata w) (fun s => s.raise .badOp) s

/-- The block takes the command word `w` (R112): it runs the instruction the word names, or answers `BAD_OP`. -/
def runCommand (w : CmdWord) (s : State) : Host.Outcome State Fault Refusal :=
  match decode (.cmd w) with
  | .ok i => exec i s
  | .error _ => badOp w s

/-- What an operation does once the frame of its state `seq` has ended (R116). -/
def afterRelease (s : State) : State :=
  match s.regs.seq with
  | .rdreg => finishRdreg s
  | .wrreg => finishWrreg s
  | .initCW => afterInitCW s
  | .initCR => afterInitCR s
  | .initHM => afterInitHM s
  | .initHL => afterInitHL s
  | .initLM => afterInitLM s
  | .initLL => afterInitLL s
  | .hasflt => finishHasflt s
  | .measLsb => afterMeasLsb s
  | .measMsb => afterMeasMsb s
  | .idle => s
  | .measChk => s
  | .measFlt => s
  | .measDec => s

/-- The frame whose chip-select has just been asserted is run as the instruction its two bytes name (R50, R111), and
the operation goes on after it. -/
def runFrameWord (s : State) : Host.Outcome State Fault Refusal :=
  match decode (.wire s.regs.wireWord) with
  | .ok i =>
    match exec i s with
    | .next t => .next (t.afterFrame afterRelease)
    | .fault r => .fault r
    | .refused r => .refused r
  | .error _ => .fault .noTransition

/-- The states of RDMEAS that run no frame (R117 to R119). -/
def runMeasureState (s : State) : Host.Outcome State Fault Refusal :=
  match s.regs.seq with
  | .measChk => .next (checkReady s)
  | .measFlt => .next (checkFault s)
  | .measDec => if kindRecognised s.regs.kind then .next (decodeReturn s) else .fault .noTransition
  | _ => .fault .noTransition

/-- An operation in progress goes on (R113 to R119). In a state that R16 excludes there is no step (R121). The
exchanges left of a frame send the bytes R111 gives for `seq`; for a frame that `exec` ran with other bytes and left
waiting, a case the spec does not give, that is the model's choice (DESIGN CHOICE, notes/assumptions/7.md). -/
def goOn (s : State) : Host.Outcome State Fault Refusal :=
  if pcLegal s.regs.seq s.regs.fe then
    match s.regs.fe with
    | .select => runFrameWord s
    | .addr => .next ((s.quiet.frameAddr s.regs.abyte s.regs.dbyte).afterFrame afterRelease)
    | .data => .next ((s.quiet.frameData s.regs.dbyte).afterFrame afterRelease)
    | .release => .next (afterRelease s.quiet)
    | .idle => runMeasureState s.quiet
  else .fault .noTransition

/-- The block with the command port showing `cmd`: idle, it takes the command, or stays idle if there is none (R112);
in the middle of an operation the port is not looked at (R42, R153). -/
def runBlock (cmd : Option CmdWord) (s : State) : Host.Outcome State Fault Refusal :=
  match s.regs.seq with
  | .idle =>
    match s.regs.fe with
    | .idle =>
      match cmd with
      | some w => runCommand w s
      | none => .next s.quiet
    | _ => .fault .noTransition
  | _ => goOn s

/-- One step of the machine: the caller and the reset line are looked at once; reset has priority over everything
(R140), otherwise the block runs (R110). -/
def runStep (s : State) : Host.Outcome State Fault Refusal :=
  let inp := s.env.callerAt 0
  let s := s.setEnv s.env.popCaller
  if inp.rst then .next s.resetBlock
  else runBlock inp.cmd s

/-- The state with the command word `w` presented to the idle block at its next step. -/
def placeCommand (w : CmdWord) (s : State) : State :=
  { s with
    regs := { s.regs with seq := .idle, fe := .idle }
    env := { s.env with caller := { rst := false, cmd := some w } :: s.env.caller.drop 1 } }

/-- The state with the frame `w` about to be run at the next step: chip-select has just been asserted for it, in the
sequencer state that sends a frame to any address, `S_RDREG` for a read frame and `S_WRREG` for a write frame
(R111). -/
def placeFrame (w : WireWord) (s : State) : State :=
  { s with
    regs := { s.regs with
      seq := if wireDir w = 1#1 then .wrreg else .rdreg
      fe := .select
      addr := wireAddr w
      wdata := wireData w }
    env := { s.env with caller := { rst := false, cmd := none } :: s.env.caller.drop 1 }
    trace := [.csLow] }

/-- The state whose next step runs the instruction of the opcode table with the bits `w`: 16 bits are a frame, any
other number a command. -/
def placeTableWord (nbits w : Nat) (s : State) : State :=
  match nbits with
  | 16 => placeFrame (BitVec.ofNat 16 w) s
  | _ => placeCommand (BitVec.ofNat 24 w) s

end Sys2Proof.Machine
end

