-- ==== Sys2Proof/Machine/Step.lean ====
section
/-! DEFINITION. The step of the machine, and the placing of an instruction for the next step. Both only call
Machine/Control.lean. -/

namespace Sys2Proof.Machine

/-- One step (spec/45_sequencer.md R110). -/
def step (s : State) : Host.Outcome State Fault Refusal := runStep s

/-- `s` with the instruction of the opcode table whose bits are `w` placed where the next step takes it from: a
command on the command port of the idle block, a frame in a sequencer state whose chip-select has just been
asserted for it (notes/assumptions/3.md). -/
def State.withFetchWord (s : State) (nbits w : Nat) : State := placeTableWord nbits w s

end Sys2Proof.Machine
end

