-- ==== Sys2Proof/Machine/Assembler.lean ====
section
/-! DEFINITION. The assembler syntax of spec/30_encoding.md R58, one term per form of a line. -/

namespace Sys2Proof.Machine

/-- A line of the assembler (R58). Numbers are as written; `assemble` checks their ranges. -/
inductive Asm where
  /-- `RDREG a`. -/
  | rdreg (a : Nat)
  /-- `WRREG a, v`. -/
  | wrreg (a v : Nat)
  /-- `INIT`. -/
  | init
  /-- `HASFLT`. -/
  | hasflt
  /-- `RDMEAS #n`; `RAW` is 0 and `TEMP` is 1. -/
  | rdmeas (n : Nat)
  /-- `RDRAW`. -/
  | rdraw
  /-- `RDTEMP`. -/
  | rdtemp
  deriving DecidableEq, Repr

/-- The number a register name stands for (R58). -/
def IcReg.asmNumber (r : IcReg) : Nat := r.address.toNat

/-- The command word of a line (R58); none where an operand is out of its range. A full address byte is accepted and
its bit 7 dropped. -/
def assemble : Asm → Option CmdWord
  | .rdreg a => if a < 256 then some (BitVec.ofNat 24 (0x100000 ||| ((a &&& 0x7F) <<< 8))) else none
  | .wrreg a v =>
    if a < 256 ∧ v < 256 then some (BitVec.ofNat 24 (0x200000 ||| ((a &&& 0x7F) <<< 8) ||| (v &&& 0xFF)))
    else none
  | .init => some 0x300000#24
  | .hasflt => some 0x400000#24
  | .rdmeas n => if n < 16 then some (BitVec.ofNat 24 (0x500000 ||| ((n &&& 0xF) <<< 16))) else none
  | .rdraw => some 0x500000#24
  | .rdtemp => some 0x510000#24

end Sys2Proof.Machine
end

