-- ==== Sys2Proof/Machine/Sequencer.lean ====
section
/-! DEFINITION. The cycle-level sequencer (spec/45_sequencer.md R110 to R120): one rising edge of `clk`, with the
outputs of R111. It is written from the cycle-level rules alone and shares with the transaction level only the
registers, the bytes of R111 and the arithmetic; that the two agree is R123. -/

namespace Sys2Proof.Machine

/-! ### Outputs (R111) -/

/-- `cmd_ready`. -/
def Regs.cmdReady (r : Regs) : Bool := r.seq == .idle

/-- `cs_n`, as a level: `false` is chip-select asserted (R18). -/
def Regs.csN (r : Regs) : Bool :=
  match r.fe with
  | .select => false
  | .addr => false
  | .data => false
  | .idle => true
  | .release => true

/-- `xfer_req`. -/
def Regs.xferReq (r : Regs) : Bool :=
  match r.fe with
  | .addr => true
  | .data => true
  | .idle => false
  | .select => false
  | .release => false

/-- `xfer_tx`. -/
def Regs.xferTx (r : Regs) : Byte :=
  match r.fe with
  | .addr => r.abyte
  | .data => r.dbyte
  | .idle => 0x00#8
  | .select => 0x00#8
  | .release => 0x00#8

/-! ### The parts of a transition -/

/-- The registers after an edge with no `respond` (R120). -/
def Regs.hush (r : Regs) : Regs := { r with rspValid := false }

/-- `respond(s, d)` at an edge, with its event (section 2 of spec/45_sequencer.md). -/
def Regs.edgeRespond (r : Regs) (status : Status) (data : RspData) : Regs × List Event :=
  ({ r with seq := .idle, fe := .idle, rspValid := true, rspStatus := status, rspData := data },
    [.rsp status data])

/-- `start(S)` at an edge: the entry into `F_SELECT` is the event `CsLow` (R113). -/
def Regs.edgeStart (r : Regs) (seq : SeqState) : Regs × List Event :=
  ({ r.hush with seq := seq, fe := .select }, [.csLow])

/-- The edge of `S_IDLE` that accepts the command `w` (R112). -/
def Regs.edgeAccept (r : Regs) (w : CmdWord) : Regs × List Event :=
  let r := { r with op := cmdOp w, kind := cmdKind w, addr := cmdAddr w, wdata := cmdWdata w }
  if cmdOp w = 0x1#4 then r.edgeStart .rdreg
  else if cmdOp w = 0x2#4 then r.edgeStart .wrreg
  else if cmdOp w = 0x3#4 then r.edgeStart .initCW
  else if cmdOp w = 0x4#4 then r.edgeStart .hasflt
  else if cmdOp w = 0x5#4 then
    if cmdKind w = 0x0#4 ∨ cmdKind w = 0x1#4 then ({ r.hush with seq := .measChk }, [])
    else r.edgeRespond .invalidKind 0x0000#16
  else r.edgeRespond .badOp 0x0000#16

/-- The edge that ends `F_RELEASE` (R116); none where `seq` runs no frame. -/
def Regs.edgeRelease (r : Regs) : Option (Regs × List Event) :=
  match r.seq with
  | .rdreg => some (r.edgeRespond .ok (r.rx.setWidth 16))
  | .wrreg => some (r.edgeRespond .ok 0x0000#16)
  | .initCW => some (r.edgeStart .initCR)
  | .initCR => some (if r.rx = 0x80#8 then r.edgeStart .initHM else r.edgeRespond .linkFail 0x0000#16)
  | .initHM => some (r.edgeStart .initHL)
  | .initHL => some (r.edgeStart .initLM)
  | .initLM => some (r.edgeStart .initLL)
  | .initLL => some (r.edgeRespond .ok 0x0001#16)
  | .hasflt => some (r.edgeRespond .ok ((faultBit r.rx).setWidth 16))
  | .measLsb => some ({ r with lsb := r.rx }.edgeStart .measMsb)
  | .measMsb => some ({ r.hush with msb := r.rx, seq := .measFlt, fe := .idle }, [])
  | .idle => none
  | .measChk => none
  | .measFlt => none
  | .measDec => none

/-- The edge of a state outside any frame (R112, R117 to R119); none where `seq` runs a frame (R16). -/
def Regs.edgeOutside (r : Regs) (inp : Inputs) : Option (Regs × List Event) :=
  match r.seq with
  | .idle => some (if inp.cmdValid then r.edgeAccept inp.cmd else (r.hush, []))
  | .measChk =>
    some (if inp.drdyN = 1#1 then
        ((r.edgeRespond .notReady 0x0000#16).1, .d inp.drdyN :: (r.edgeRespond .notReady 0x0000#16).2)
      else ((r.edgeStart .measLsb).1, .d inp.drdyN :: (r.edgeStart .measLsb).2))
  | .measFlt =>
    some (if faultBit r.lsb = 1#1 then r.edgeRespond .fault 0x0000#16
      else ({ r.hush with seq := .measDec }, []))
  | .measDec =>
    if r.kind = 0x0#4 then some (r.edgeRespond .ok (rawData (rawCode r.msb r.lsb)))
    else if r.kind = 0x1#4 then some (r.edgeRespond .ok (temperatureData (rawCode r.msb r.lsb)))
    else none
  | .rdreg => none
  | .wrreg => none
  | .initCW => none
  | .initCR => none
  | .initHM => none
  | .initHL => none
  | .initLM => none
  | .initLL => none
  | .hasflt => none
  | .measLsb => none
  | .measMsb => none

/-- One rising edge of `clk` with the inputs `inp` (R110): the registers after it and the events of it, or none in a
state the spec gives no step (R121). -/
def edge (inp : Inputs) (r : Regs) : Option (Regs × List Event) :=
  if inp.rst then some (Regs.reset, [])
  else
    match r.fe with
    | .idle => r.edgeOutside inp
    | .select => if r.seq.runsFrame then some ({ r.hush with fe := .addr }, []) else none
    | .addr =>
      if r.seq.runsFrame then
        some (if inp.xferDone then ({ r.hush with fe := .data }, [.x r.abyte inp.xferRx]) else (r.hush, []))
      else none
    | .data =>
      if r.seq.runsFrame then
        some (if inp.xferDone then
            ({ r.hush with rx := inp.xferRx, fe := .release }, [.x r.dbyte inp.xferRx, .csHigh])
          else (r.hush, []))
      else none
    | .release => r.edgeRelease

/-! ### Runs of edges -/

/-- Consecutive edges: the registers after the last and the events of all, or none where some edge has no step. -/
def edges : List Inputs → Regs → Option (Regs × List Event)
  | [], r => some (r, [])
  | inp :: rest, r =>
    match edge inp r with
    | none => none
    | some (r1, ev1) =>
      match edges rest r1 with
      | none => none
      | some (r2, ev2) => some (r2, ev1 ++ ev2)

/-- The block is busy before every edge of the run, so that no edge of it accepts a command. -/
def busyThroughout : List Inputs → Regs → Bool
  | [], _ => true
  | inp :: rest, r =>
    r.seq != .idle &&
      (match edge inp r with
      | none => false
      | some (r1, _) => busyThroughout rest r1)

/-- The bytes of the exchanges completed in a run of edges, in order (R123). -/
def bytesReceived : List Inputs → Regs → List Byte
  | [], _ => []
  | inp :: rest, r =>
    match edge inp r with
    | none => []
    | some (r1, _) =>
      if r.xferReq && inp.xferDone then inp.xferRx :: bytesReceived rest r1 else bytesReceived rest r1

/-- The levels of the data-ready samples taken in a run of edges, in order (R117). -/
def levelsSampled : List Inputs → Regs → List Bit
  | [], _ => []
  | inp :: rest, r =>
    match edge inp r with
    | none => []
    | some (r1, _) =>
      if r.seq == .measChk then inp.drdyN :: levelsSampled rest r1 else levelsSampled rest r1

end Sys2Proof.Machine
end

