-- ==== Sys2Proof/Safety.lean ====
section
/-! DEFINITION. The terms claims are stated in: when the block is idle, what the partner answers, what a well-framed
trace is, the invariant of the machine, and when two states cannot be told apart at the interface. -/

namespace Sys2Proof.Machine

/-- The block is idle and accepts a command (spec/10_state.md R13). -/
abbrev State.Idle (s : State) : Prop := s.regs.seq = .idle ∧ s.regs.fe = .idle

/-- The coming samples of the exchange port complete an exchange each, with the bytes `bs` in order: the fairness
premise of spec/70_reset_and_hazards.md R151, with the bytes named. -/
def State.Answers (s : State) (bs : List Byte) : Prop :=
  ∀ k b, bs[k]? = some b → s.env.answerAt k = some b

/-- The coming `n` samples of the exchange port complete an exchange each, whatever the bytes (R151). -/
def State.Completes (s : State) (n : Nat) : Prop := ∀ k, k < n → (s.env.answerAt k).isSome = true

/-- The four events of a frame (spec/40_bus_transaction.md R60). -/
def frameEvents (ab r1 db r2 : Byte) : List Event := [.csLow, .x ab r1, .x db r2, .csHigh]

/-- The instruction is a command, not a frame (spec/30_encoding.md R52). -/
def isCommand : Instr → Bool
  | .rdreg _ _ _ _ => true
  | .wrreg _ _ _ _ => true
  | .init _ _ _ _ => true
  | .hasflt _ _ _ _ => true
  | .rdmeas _ _ _ _ => true
  | .rdraw _ _ _ => true
  | .rdtemp _ _ _ => true
  | .rdFrame _ => false
  | .wrFrame _ _ => false

/-- The statuses an instruction can end with (spec/60_exceptions.md R130, column "raised by"). A frame has no status
of its own (spec/40_bus_transaction.md R61 f). -/
def mayEndWith : Instr → Status → Bool
  | .rdreg _ _ _ _, st => st == .ok
  | .wrreg _ _ _ _, st => st == .ok
  | .init _ _ _ _, st => st == .ok || st == .linkFail
  | .hasflt _ _ _ _, st => st == .ok
  | .rdmeas _ _ _ _, st => st == .ok || st == .notReady || st == .fault || st == .invalidKind
  | .rdraw _ _ _, st => st == .ok || st == .notReady || st == .fault
  | .rdtemp _ _ _, st => st == .ok || st == .notReady || st == .fault
  | .rdFrame _, _ => false
  | .wrFrame _ _, _ => false

/-- The statuses an operation in progress can still end with, by the place it has reached (spec/60_exceptions.md R130,
R133; spec/45_sequencer.md R116 to R119): each test that lies behind it no longer can. -/
def SeqState.mayEndWith : SeqState → Status → Bool
  | .idle, _ => false
  | .rdreg, st => st == .ok
  | .wrreg, st => st == .ok
  | .initCW, st => st == .ok || st == .linkFail
  | .initCR, st => st == .ok || st == .linkFail
  | .initHM, st => st == .ok
  | .initHL, st => st == .ok
  | .initLM, st => st == .ok
  | .initLL, st => st == .ok
  | .hasflt, st => st == .ok
  | .measChk, st => st == .ok || st == .notReady || st == .fault
  | .measLsb, st => st == .ok || st == .fault
  | .measMsb, st => st == .ok || st == .fault
  | .measFlt, st => st == .ok || st == .fault
  | .measDec, st => st == .ok

/-! ### How far a step runs -/

/-- The environment after so many samples of the exchange port and so many of data-ready. -/
def Env.used (e : Env) (samples levels : Nat) : Env :=
  { e with
    answers := e.answers.drop samples, answerTick := e.answerTick + samples
    levels := e.levels.drop levels, levelTick := e.levelTick + levels }

/-- A step that has completed `n` exchanges ends in the registers `r`: the operation has ended, or it waits in `F_ADDR` or
`F_DATA` because the sample after them completes no exchange (spec/45_sequencer.md R114, R115). -/
def Env.EndsAt (e : Env) (n : Nat) (r : Regs) : Prop :=
  r.seq = .idle ∨ ((r.fe = .addr ∨ r.fe = .data) ∧ e.answerAt n = none)

/-- The samples of the exchange port such a step takes: the `n` completed and, where it waits, the one that was not. -/
def samplesTaken (n : Nat) (r : Regs) : Nat := if r.seq = .idle then n else n + 1

/-! ### Well-framed traces -/

/-- Where a trace stands with respect to frames: outside a frame, in a frame with so many exchanges done, or after the
response. -/
inductive Bracket where
  | outside | open0 | open1 | open2 | ended
  deriving DecidableEq, Repr

/-- One event of a well-framed trace: chip-select strictly alternates, exactly two exchanges happen while it is
asserted and none outside, data-ready is sampled and a response given only outside a frame, and nothing follows the
response (spec/40_bus_transaction.md R61, R65; spec/60_exceptions.md R132, R134). -/
def Bracket.next (b : Bracket) (e : Event) : Option Bracket :=
  match b with
  | .outside =>
    match e with
    | .csLow => some .open0
    | .d _ => some .outside
    | .rsp _ _ => some .ended
    | .x _ _ => none
    | .csHigh => none
  | .open0 =>
    match e with
    | .x _ _ => some .open1
    | _ => none
  | .open1 =>
    match e with
    | .x _ _ => some .open2
    | _ => none
  | .open2 =>
    match e with
    | .csHigh => some .outside
    | _ => none
  | .ended => none

/-- Where a trace that begins at `b` ends, or none if it is not well framed. -/
def Bracket.run : Bracket → List Event → Option Bracket
  | b, [] => some b
  | b, e :: es =>
    match b.next e with
    | none => none
    | some b' => b'.run es

/-- Where the trace of an operation in progress stands in each frame phase. -/
def FramePhase.bracket : FramePhase → Bracket
  | .idle => .outside
  | .select => .open0
  | .addr => .open0
  | .data => .open1
  | .release => .outside

/-- The trace agrees with the sequencer: of an operation in progress it is well framed and stands where `fe` says; at
idle it is well framed and has ended, or nothing has happened since reset. -/
def traceAgrees (seq : SeqState) (fe : FramePhase) (trace : List Event) : Bool :=
  if seq = .idle then trace == [] || Bracket.run .outside trace == some .ended
  else Bracket.run .outside trace == some fe.bracket

/-! ### The invariant -/

/-- The sequencer state belongs to RDMEAS. -/
def SeqState.measuring : SeqState → Bool
  | .measChk => true
  | .measLsb => true
  | .measMsb => true
  | .measFlt => true
  | .measDec => true
  | _ => false

/-- What every run from reset keeps. -/
structure State.Inv (s : State) : Prop where
  /-- R16: the pairs `(seq, fe)` it allows. -/
  pcLegal : Machine.pcLegal s.regs.seq s.regs.fe = true
  /-- R119: RDMEAS goes on only with a recognised kind. -/
  kindRecognised : s.regs.seq.measuring = true → Machine.kindRecognised s.regs.kind = true
  /-- R120, R131: a response is signalled only when the block is idle again. -/
  validIdle : s.regs.rspValid = true → s.regs.seq = .idle
  /-- R57: data is zero whenever the status is not `OK`. -/
  dataZero : s.regs.rspStatus ≠ .ok → s.regs.rspData = 0x0000#16
  /-- R8, R131: the response signalled is the last event of the operation. -/
  validLast : s.regs.rspValid = true → s.trace.getLast? = some (.rsp s.regs.rspStatus s.regs.rspData)
  /-- R61, R65, R132, R134: the trace is well framed and agrees with the sequencer. -/
  framed : traceAgrees s.regs.seq s.regs.fe s.trace = true

/-! ### What can be told apart at the interface -/

/-- Two states look the same at the interface after an operation (R8, R11): same trace, same place of the sequencer,
same use of the environment, and, if the operation has ended, the same response. -/
structure SameOutcome (t u : State) : Prop where
  trace : t.trace = u.trace
  pc : t.regs.seq = u.regs.seq ∧ t.regs.fe = u.regs.fe
  env : t.env = u.env
  valid : t.regs.rspValid = u.regs.rspValid
  response : t.regs.seq = .idle → t.regs.rspStatus = u.regs.rspStatus ∧ t.regs.rspData = u.regs.rspData

/-- Two states look the same at the interface and stand at the same point of the same operation: they may differ in any
register the rest of the operation does not read (spec/45_sequencer.md R111, R116, R118, R119, R122), such as a
field it ignores. -/
structure SameOperation (t u : State) : Prop extends SameOutcome t u where
  addr : t.regs.seq = .rdreg ∨ t.regs.seq = .wrreg → t.regs.addr = u.regs.addr
  wdata : t.regs.seq = .wrreg → t.regs.wdata = u.regs.wdata
  kind : t.regs.seq.measuring = true → t.regs.kind = u.regs.kind
  rx : t.regs.fe = .release → t.regs.rx = u.regs.rx
  lsb : t.regs.seq = .measMsb ∨ t.regs.seq = .measFlt ∨ t.regs.seq = .measDec → t.regs.lsb = u.regs.lsb
  msb : t.regs.seq = .measFlt ∨ t.regs.seq = .measDec → t.regs.msb = u.regs.msb

end Sys2Proof.Machine
end

