-- ==== Sys2Proof/Certificates/Slice0/Obligations.lean ====
section
/-! DEFINITION. The statements for the provers, one `def Obligations.<Name> : Prop` each, from the numbered rules of spec/.
No statement rests on the value of a free value of Config: where one speaks of the environment it holds for every
script and every free value. -/

open Sys2Proof Sys2Proof.Machine

/-! ### Encoding -/

/-- Decoding the code of a well-formed instruction gives it back (R50, R52, R53, R58): no bit of an encoding is lost. -/
def Obligations.DecodeEncode : Prop := ∀ i : Instr, i.wf = true → decode (encode i) = .ok i

/-- Every code the decoder takes is the code of the instruction it names, and that instruction is well formed: each
code has one meaning (R50, R52, R53). -/
def Obligations.EncodeDecode : Prop :=
  ∀ (c : Code) (i : Instr), decode c = .ok i → encode i = c ∧ i.wf = true

/-- R53: a command word names the operation whose match and mask it meets, and one that meets none is rejected by its
operation code (R56). A pseudo-instruction is read as the command it expands to (R58). -/
def Obligations.OperationCodes : Prop :=
  ∀ w : CmdWord,
    (w &&& 0xF00000#24 = 0x100000#24 ↔
      decode (.cmd w) = .ok (.rdreg (cmdKind w) (cmdIgn w) (cmdAddr w) (cmdWdata w))) ∧
    (w &&& 0xF00000#24 = 0x200000#24 ↔
      decode (.cmd w) = .ok (.wrreg (cmdKind w) (cmdIgn w) (cmdAddr w) (cmdWdata w))) ∧
    (w &&& 0xF00000#24 = 0x300000#24 ↔
      decode (.cmd w) = .ok (.init (cmdKind w) (cmdIgn w) (cmdAddr w) (cmdWdata w))) ∧
    (w &&& 0xF00000#24 = 0x400000#24 ↔
      decode (.cmd w) = .ok (.hasflt (cmdKind w) (cmdIgn w) (cmdAddr w) (cmdWdata w))) ∧
    (w &&& 0xF00000#24 = 0x500000#24 ↔
      ∃ i, decode (.cmd w) = .ok i ∧ i.expand = .rdmeas (cmdKind w) (cmdIgn w) (cmdAddr w) (cmdWdata w)) ∧
    ((cmdOp w = 0x0#4 ∨ 0x6#4 ≤ cmdOp w) ↔ decode (.cmd w) = .error (.reservedOp (cmdOp w)))

/-- Eleven words and what the decoder reads them as. Eight of them are read as R50, R52, R53 and R56 say. Three readings
are the model's: that `0x500000` and `0x5100FF` name the
narrower rows RDRAW and RDTEMP and not RDMEAS (DEDUCED, notes/assumptions/4.md), and that the bytes `0x02`, `0x00`, which
are no frame of R50, are rejected by the name noSuchFrame (DEDUCED, notes/assumptions/12.md). -/
def Obligations.SpecWordsDecode : Prop :=
  decode (.cmd 0x100700#24) = .ok (.rdreg 0 0 0x07 0x00) ∧
  decode (.cmd 0x208455#24) = .ok (.wrreg 0 1 0x04 0x55) ∧
  decode (.cmd 0x300000#24) = .ok (.init 0 0 0 0) ∧
  decode (.cmd 0x400000#24) = .ok (.hasflt 0 0 0 0) ∧
  decode (.cmd 0x520000#24) = .ok (.rdmeas 2 0 0 0) ∧
  decode (.cmd 0x500000#24) = .ok (.rdraw 0 0 0) ∧
  decode (.cmd 0x5100FF#24) = .ok (.rdtemp 0 0 0xFF) ∧
  decode (.wire 0x02FF#16) = .ok (.rdFrame 0x02) ∧
  decode (.wire 0x83FF#16) = .ok (.wrFrame 0x03 0xFF) ∧
  decode (.cmd 0x700000#24) = .error (.reservedOp 0x7) ∧
  decode (.wire 0x0200#16) = .error (.noSuchFrame 0x00)

/-- R31: in every row of the register table the read address byte is the register address with direction 0, and the
write address byte, where the table has one, is the read address byte with bit 7 set. -/
def Obligations.RegisterTable : Prop :=
  ∀ r : IcReg, r.readByte = addressByte 0#1 r.address ∧
    (∀ b, r.writeByte = some b → b = addressByte 1#1 r.address ∧ b = r.readByte ||| 0x80#8) ∧
    (r.writeByte = none ↔ r = .rtdMsb ∨ r = .rtdLsb ∨ r = .faultStatus)

/-- R58: a line of the assembler with its operands in range gives the word of the command it names, in canonical form;
a line with an operand out of range gives none; bit 7 of a full address byte is dropped. The register names stand for the
numbers R58 gives. Two readings are the model's and not R58's: lines are terms, and an operand out of range gives no word
(DESIGN CHOICE, notes/assumptions/10.md); and the words of RDRAW and RDTEMP, which are those of RDMEAS RAW and RDMEAS
TEMP, are decoded to the narrower rows `rdraw` and `rdtemp` (DEDUCED, notes/assumptions/4.md). -/
def Obligations.AssemblerWords : Prop :=
  (∀ a : Nat, (a < 256 → ∃ w, assemble (.rdreg a) = some w ∧
      decode (.cmd w) = .ok (.rdreg 0 0 (BitVec.ofNat 7 a) 0)) ∧
    (256 ≤ a → assemble (.rdreg a) = none)) ∧
  (∀ a v : Nat, (a < 256 ∧ v < 256 → ∃ w, assemble (.wrreg a v) = some w ∧
      decode (.cmd w) = .ok (.wrreg 0 0 (BitVec.ofNat 7 a) (BitVec.ofNat 8 v))) ∧
    (256 ≤ a ∨ 256 ≤ v → assemble (.wrreg a v) = none)) ∧
  (∃ w, assemble .init = some w ∧ decode (.cmd w) = .ok (.init 0 0 0 0)) ∧
  (∃ w, assemble .hasflt = some w ∧ decode (.cmd w) = .ok (.hasflt 0 0 0 0)) ∧
  (∀ n : Nat, (n < 16 → ∃ w i, assemble (.rdmeas n) = some w ∧ decode (.cmd w) = .ok i ∧
      i.expand = .rdmeas (BitVec.ofNat 4 n) 0 0 0) ∧
    (16 ≤ n → assemble (.rdmeas n) = none)) ∧
  (∃ w, assemble .rdraw = some w ∧ assemble (.rdmeas 0) = some w ∧ decode (.cmd w) = .ok (.rdraw 0 0 0)) ∧
  (∃ w, assemble .rdtemp = some w ∧ assemble (.rdmeas 1) = some w ∧ decode (.cmd w) = .ok (.rdtemp 0 0 0)) ∧
  (∀ (l : Asm) (w : CmdWord) (i : Instr), assemble l = some w → decode (.cmd w) = .ok i → i.canonical = true) ∧
  IcReg.config.asmNumber = 0x00 ∧ IcReg.rtdMsb.asmNumber = 0x01 ∧ IcReg.rtdLsb.asmNumber = 0x02 ∧
  IcReg.hftMsb.asmNumber = 0x03 ∧ IcReg.hftLsb.asmNumber = 0x04 ∧ IcReg.lftMsb.asmNumber = 0x05 ∧
  IcReg.lftLsb.asmNumber = 0x06 ∧ IcReg.faultStatus.asmNumber = 0x07

/-- R50, R111: whatever frame the sequencer is about to run, its two sent bytes are a read frame with the dummy byte or
a write frame; there is no other. -/
def Obligations.SentFramesHaveAShape : Prop :=
  ∀ r : Regs, r.seq.runsFrame = true →
    (∃ a, decode (.wire r.wireWord) = .ok (.rdFrame a) ∧ r.abyte = addressByte 0#1 a ∧ r.dbyte = 0xFF#8) ∨
    (∃ a d, decode (.wire r.wireWord) = .ok (.wrFrame a d) ∧ r.abyte = addressByte 1#1 a ∧ r.dbyte = d)

/-! ### The Bus Transaction Layer -/

/-- R60, R62, R63: a frame is `CsLow`, the first byte exchanged, the second byte exchanged, `CsHigh`, and nothing else, for
ANY two bytes; its result, the byte received with the second, is left in `RX`. `MemRead` sends `0 ‖ a` and `0xFF`,
`MemWrite` sends `1 ‖ a` and the value, for any 7-bit address. -/
def Obligations.FramePrimitive : Prop :=
  ∀ (s : State) (q : SeqState) (ab db v r b : Byte) (a : Addr), s.Answers [r, b] →
    s.frame q ab db =
      { regs := { s.regs with seq := q, fe := .release, rx := b }
        env := s.env.dropAnswers 2
        trace := s.trace ++ [.csLow, .x ab r, .x db b, .csHigh] } ∧
    s.memRead q a = s.frame q (0#1 ++ a) 0xFF#8 ∧
    s.memWrite q a v = s.frame q (1#1 ++ a) v

/-- R62, RD_FRAME: in a frame-running state whose chip-select has just been asserted, or whose frame before has ended,
the read frame to ANY address sends `0 ‖ a` and `0xFF`, takes the byte received with the second into `RX`, and
leaves chip-select deasserted; nothing else changes. That a frame is an instruction of its own, and where it runs, is the
model's choice (notes/assumptions/7.md). -/
def Obligations.ReadFrameResult : Prop :=
  ∀ (s : State) (a : Addr) (r b : Byte), s.regs.seq.runsFrame = true → s.Answers [r, b] →
    (s.regs.fe = .select → exec (.rdFrame a) s = .next
      { regs := { s.regs with fe := .release, rx := b, rspValid := false }
        env := s.env.dropAnswers 2
        trace := s.trace ++ [.x (0#1 ++ a) r, .x 0xFF#8 b, .csHigh] }) ∧
    (s.regs.fe = .release → exec (.rdFrame a) s = .next
      { regs := { s.regs with fe := .release, rx := b, rspValid := false }
        env := s.env.dropAnswers 2
        trace := s.trace ++ [.csLow, .x (0#1 ++ a) r, .x 0xFF#8 b, .csHigh] })

/-- R63, WR_FRAME: the write frame to ANY address sends `1 ‖ a` and the value. That a frame is an instruction of
its own, and where it runs, is the model's choice (notes/assumptions/7.md). -/
def Obligations.WriteFrameResult : Prop :=
  ∀ (s : State) (a : Addr) (d r b : Byte), s.regs.seq.runsFrame = true → s.Answers [r, b] →
    (s.regs.fe = .select → exec (.wrFrame a d) s = .next
      { regs := { s.regs with fe := .release, rx := b, rspValid := false }
        env := s.env.dropAnswers 2
        trace := s.trace ++ [.x (1#1 ++ a) r, .x d b, .csHigh] }) ∧
    (s.regs.fe = .release → exec (.wrFrame a d) s = .next
      { regs := { s.regs with fe := .release, rx := b, rspValid := false }
        env := s.env.dropAnswers 2
        trace := s.trace ++ [.csLow, .x (1#1 ++ a) r, .x d b, .csHigh] })

/-- R16, R65: where a frame does not begin. Inside a frame it is stopped by name; in a state that runs no frame, or in a
frame-running state outside any frame, which R16 excludes, there is no step. The names of the stops are the model's choice
(notes/assumptions/7.md). -/
def Obligations.FramesStopElsewhere : Prop :=
  ∀ (s : State) (i : Instr), (∃ a, i = .rdFrame a) ∨ (∃ a d, i = .wrFrame a d) →
    (s.regs.seq.runsFrame = true ∧ (s.regs.fe = .addr ∨ s.regs.fe = .data) →
      exec i s = .fault .frameInProgress) ∧
    (s.regs.seq.runsFrame = false ∨ s.regs.fe = .idle → exec i s = .fault .noTransition)

/-- R70, RDREG: from idle, for every address and whatever the ignored fields, the command word `0001 kkkk i aaaaaaa
vvvvvvvv` sends one read frame and answers `OK` with the byte received in the second exchange, zero-extended. All
four fields are latched; `RX` holds the byte; no other register of the block changes. -/
def Obligations.RdregResult : Prop :=
  ∀ (s : State) (kind : Nibble) (ign : Bit) (addr : Addr) (wdata r b : Byte), s.Idle → s.Answers [r, b] →
    encode (.rdreg kind ign addr wdata) = .cmd (0x1#4 ++ kind ++ ign ++ addr ++ wdata) ∧
    exec (.rdreg kind ign addr wdata) s = .next
      { regs := { s.regs with
          seq := .idle, fe := .idle, op := 0x1#4, kind := kind, addr := addr, wdata := wdata, rx := b
          rspValid := true, rspStatus := .ok, rspData := b.setWidth 16 }
        env := s.env.dropAnswers 2
        trace := [.csLow, .x (0#1 ++ addr) r, .x 0xFF#8 b, .csHigh, .rsp .ok (b.setWidth 16)] }

/-- R71, WRREG: from idle, for every address and value and whatever the ignored fields, the command sends one write
frame and answers `(OK, 0x0000)`. `RX` takes the byte received, which nothing uses. -/
def Obligations.WrregResult : Prop :=
  ∀ (s : State) (kind : Nibble) (ign : Bit) (addr : Addr) (wdata r b : Byte), s.Idle → s.Answers [r, b] →
    encode (.wrreg kind ign addr wdata) = .cmd (0x2#4 ++ kind ++ ign ++ addr ++ wdata) ∧
    exec (.wrreg kind ign addr wdata) s = .next
      { regs := { s.regs with
          seq := .idle, fe := .idle, op := 0x2#4, kind := kind, addr := addr, wdata := wdata, rx := b
          rspValid := true, rspStatus := .ok, rspData := 0x0000#16 }
        env := s.env.dropAnswers 2
        trace := [.csLow, .x (1#1 ++ addr) r, .x wdata b, .csHigh, .rsp .ok 0x0000#16] }

/-! ### INIT -/

/-- R80, R81, R82, INIT: the configuration byte is written and read back. With the read-back `0x80` the four threshold
frames follow, in the order given, and the answer is `(OK, 0x0001)`; with ANY other read-back no threshold frame is sent
and the answer is `(LINK_FAIL, 0x0000)`. -/
def Obligations.InitResult : Prop :=
  ∀ (s : State) (kind : Nibble) (ign : Bit) (addr : Addr) (wdata : Byte)
    (r1 b1 r2 rb r3 b3 r4 b4 r5 b5 r6 b6 : Byte), s.Idle →
    encode (.init kind ign addr wdata) = .cmd (0x3#4 ++ kind ++ ign ++ addr ++ wdata) ∧
    (s.Answers [r1, b1, r2, 0x80#8, r3, b3, r4, b4, r5, b5, r6, b6] →
      exec (.init kind ign addr wdata) s = .next
        { regs := { s.regs with
            seq := .idle, fe := .idle, op := 0x3#4, kind := kind, addr := addr, wdata := wdata, rx := b6
            rspValid := true, rspStatus := .ok, rspData := 0x0001#16 }
          env := s.env.dropAnswers 12
          trace := [.csLow, .x 0x80#8 r1, .x 0x80#8 b1, .csHigh,
            .csLow, .x 0x00#8 r2, .x 0xFF#8 0x80#8, .csHigh,
            .csLow, .x 0x83#8 r3, .x 0xFF#8 b3, .csHigh,
            .csLow, .x 0x84#8 r4, .x 0xFF#8 b4, .csHigh,
            .csLow, .x 0x85#8 r5, .x 0x00#8 b5, .csHigh,
            .csLow, .x 0x86#8 r6, .x 0x00#8 b6, .csHigh,
            .rsp .ok 0x0001#16] }) ∧
    (s.Answers [r1, b1, r2, rb] → rb ≠ 0x80#8 →
      exec (.init kind ign addr wdata) s = .next
        { regs := { s.regs with
            seq := .idle, fe := .idle, op := 0x3#4, kind := kind, addr := addr, wdata := wdata, rx := rb
            rspValid := true, rspStatus := .linkFail, rspData := 0x0000#16 }
          env := s.env.dropAnswers 4
          trace := [.csLow, .x 0x80#8 r1, .x 0x80#8 b1, .csHigh,
            .csLow, .x 0x00#8 r2, .x 0xFF#8 rb, .csHigh, .rsp .linkFail 0x0000#16] })

/-! ### HASFLT -/

/-- R85, R86, HASFLT: one read frame of the RTD LSB register and `OK` with bit 0 of the byte received, whatever its
other bits and whatever the data-ready level, which is not sampled (R87). -/
def Obligations.HasfltResult : Prop :=
  ∀ (s : State) (kind : Nibble) (ign : Bit) (addr : Addr) (wdata r l : Byte), s.Idle → s.Answers [r, l] →
    encode (.hasflt kind ign addr wdata) = .cmd (0x4#4 ++ kind ++ ign ++ addr ++ wdata) ∧
    exec (.hasflt kind ign addr wdata) s = .next
      { regs := { s.regs with
          seq := .idle, fe := .idle, op := 0x4#4, kind := kind, addr := addr, wdata := wdata, rx := l
          rspValid := true, rspStatus := .ok, rspData := (l &&& 0x01#8).setWidth 16 }
        env := s.env.dropAnswers 2
        trace := [.csLow, .x 0x02#8 r, .x 0xFF#8 l, .csHigh,
          .rsp .ok ((l &&& 0x01#8).setWidth 16)] }

/-! ### RDMEAS, RDRAW, RDTEMP -/

/-- R90 to R93, R100, R101: RDMEAS, and RDRAW and RDTEMP, which are RDMEAS of kind 0 and 1 (R58). A kind other than 0
and 1 ends it with `INVALID_KIND` and no event before. Otherwise data-ready is sampled once: level 1 ends it with
`NOT_READY` and no frame; level 0 sends the RTD LSB frame and then the RTD MSB frame, whatever they return. Bit 0 of the
LSB byte then ends it with `FAULT` for either kind; without it the answer is the raw code or the temperature. -/
def Obligations.RdmeasResult : Prop :=
  ∀ (i : Instr) (s : State) (kind : Nibble) (ign : Bit) (addr : Addr) (wdata r1 l r2 m : Byte) (raw : Nat),
    s.Idle → i.expand = .rdmeas kind ign addr wdata →
    raw = (m.toNat <<< 7) ||| ((l.toNat &&& 0xFE) >>> 1) →
    encode i = .cmd (0x5#4 ++ kind ++ ign ++ addr ++ wdata) ∧
    (kind ≠ 0x0#4 → kind ≠ 0x1#4 → exec i s = .next
      { regs := { s.regs with
          seq := .idle, fe := .idle, op := 0x5#4, kind := kind, addr := addr, wdata := wdata
          rspValid := true, rspStatus := .invalidKind, rspData := 0x0000#16 }
        env := s.env
        trace := [.rsp .invalidKind 0x0000#16] }) ∧
    (kind = 0x0#4 ∨ kind = 0x1#4 → s.env.levelAt 0 = 1#1 → exec i s = .next
      { regs := { s.regs with
          seq := .idle, fe := .idle, op := 0x5#4, kind := kind, addr := addr, wdata := wdata
          rspValid := true, rspStatus := .notReady, rspData := 0x0000#16 }
        env := s.env.popLevel
        trace := [.d 1#1, .rsp .notReady 0x0000#16] }) ∧
    (kind = 0x0#4 ∨ kind = 0x1#4 → s.env.levelAt 0 = 0#1 → s.Answers [r1, l, r2, m] →
      ∃ status data, exec i s = .next
        { regs := { s.regs with
            seq := .idle, fe := .idle, op := 0x5#4, kind := kind, addr := addr, wdata := wdata
            rx := m, lsb := l, msb := m, rspValid := true, rspStatus := status, rspData := data }
          env := s.env.popLevel.dropAnswers 4
          trace := [.d 0#1, .csLow, .x 0x02#8 r1, .x 0xFF#8 l, .csHigh,
            .csLow, .x 0x01#8 r2, .x 0xFF#8 m, .csHigh, .rsp status data] } ∧
        (l &&& 0x01#8 = 0x01#8 → status = .fault ∧ data = 0x0000#16) ∧
        (l &&& 0x01#8 = 0x00#8 → status = .ok ∧
          data = if kind = 0x0#4 then BitVec.ofNat 16 raw
            else BitVec.ofInt 16 ((((10 * raw) >>> 5 : Nat) : Int) - 2560)))

/-- R58: RDRAW is RDMEAS RAW and RDTEMP is RDMEAS TEMP, in every state. -/
def Obligations.PseudoInstructions : Prop :=
  ∀ (i : Instr) (s : State), exec i s = exec i.expand s

/-- R99: from one state, the two kinds produce the same events up to the response, and where RawCode answers `OK`
with a code, Temperature answers `OK` with the formula's value of that code. -/
def Obligations.KindsConsistent : Prop :=
  ∀ (s : State) (ign : Bit) (addr : Addr) (wdata : Byte), s.Idle →
    ∃ t u, exec (.rdmeas 0x0#4 ign addr wdata) s = .next t ∧ exec (.rdmeas 0x1#4 ign addr wdata) s = .next u ∧
      t.env = u.env ∧ t.regs.seq = u.regs.seq ∧ t.regs.fe = u.regs.fe ∧ t.regs.rspValid = u.regs.rspValid ∧
      (t.regs.rspValid = false → t.trace = u.trace) ∧
      (t.regs.rspValid = true → ∃ pre, t.trace = pre ++ [.rsp t.regs.rspStatus t.regs.rspData] ∧
        u.trace = pre ++ [.rsp u.regs.rspStatus u.regs.rspData] ∧ t.regs.rspStatus = u.regs.rspStatus ∧
        (t.regs.rspStatus = .ok →
          u.regs.rspData.toInt = (((10 * t.regs.rspData.toNat) >>> 5 : Nat) : Int) - 2560))

/-! ### The conversion pipeline -/

/-- R94: the raw code is the spec's formula, ignores bit 0 of the LSB byte, and takes every 15-bit value from exactly
two byte pairs, which differ in the fault bit. -/
def Obligations.RawCodeAssembly : Prop :=
  (∀ m l : Byte, (rawCode m l).toNat = (m.toNat <<< 7) ||| ((l.toNat &&& 0xFE) >>> 1)) ∧
  (∀ m l : Byte, rawCode m l = m ++ l.extractLsb' 1 7 ∧ rawCode m l = rawCode m (l ^^^ 0x01#8)) ∧
  (∀ m l : Byte, (rawData (rawCode m l)).toNat = (m.toNat <<< 7) + ((l.toNat &&& 0xFE) >>> 1) ∧
    (rawData (rawCode m l)).getLsbD 15 = false) ∧
  (∀ raw : RawCode, ∃ m l : Byte, rawCode m l = raw ∧
    ∀ m' l' : Byte, rawCode m' l' = raw → m' = m ∧ (l' = l ∨ l' = l ^^^ 0x01#8))

/-- R95, R96: the temperature is `((10 * raw) >> 5) - 2560`, that is `floor(10 * raw / 32) - 2560`; the product is at
most 327670; signed arithmetic of ANY width from 20 bits on gives the same result; the response is its low 16 bits, which
lose nothing. -/
def Obligations.TemperatureFormula : Prop :=
  ∀ raw : RawCode,
    temperatureTenths raw = (((10 * raw.toNat) >>> 5 : Nat) : Int) - 2560 ∧
    temperatureTenths raw = ((10 * raw.toNat / 32 : Nat) : Int) - 2560 ∧
    10 * raw.toNat ≤ 327670 ∧ 327670 < 2 ^ 19 ∧
    (∀ w, 20 ≤ w →
      ((BitVec.ofNat w 10 * raw.setWidth w).sshiftRight 5 - BitVec.ofNat w 2560).toInt = temperatureTenths raw) ∧
    temperatureData raw = BitVec.ofInt 16 (temperatureTenths raw) ∧
    (temperatureData raw).toInt = temperatureTenths raw

/-- R97: the temperature lies in [-2560, 7679], both ends are taken, it is monotone with steps of 0 or 1, it is zero
exactly from 8192 to 8195 and negative exactly below 8192, and the 16-bit response holds it exactly. -/
def Obligations.TemperatureRange : Prop :=
  (∀ raw : RawCode, -2560 ≤ temperatureTenths raw ∧ temperatureTenths raw ≤ 7679 ∧
    (temperatureTenths raw = 0 ↔ 8192 ≤ raw.toNat ∧ raw.toNat ≤ 8195) ∧
    (temperatureTenths raw < 0 ↔ raw.toNat < 8192) ∧
    (temperatureData raw).toInt = temperatureTenths raw) ∧
  temperatureTenths 0#15 = -2560 ∧ temperatureTenths 32767#15 = 7679 ∧
  temperatureData 0#15 = 0xF600#16 ∧ temperatureData 32767#15 = 0x1DFF#16 ∧
  (∀ a b : RawCode, a.toNat ≤ b.toNat → temperatureTenths a ≤ temperatureTenths b) ∧
  (∀ a b : RawCode, b.toNat = a.toNat + 1 →
    temperatureTenths b = temperatureTenths a ∨ temperatureTenths b = temperatureTenths a + 1)

/-! ### Commands in general -/

/-- R56: a word with a reserved operation code, accepted by the idle block, is answered `BAD_OP` at once, with no bus
event and no data-ready sample; its fields are latched (R112). -/
def Obligations.ReservedOperations : Prop :=
  ∀ (s : State) (w : CmdWord), s.Idle → s.env.callerAt 0 = { rst := false, cmd := some w } →
    cmdOp w = 0x0#4 ∨ 0x6#4 ≤ cmdOp w →
    step s = .next
      { regs := { s.regs with
          seq := .idle, fe := .idle, op := cmdOp w, kind := cmdKind w, addr := cmdAddr w, wdata := cmdWdata w
          rspValid := true, rspStatus := .badOp, rspData := 0x0000#16 }
        env := s.env.popCaller
        trace := [.rsp .badOp 0x0000#16] }

/-- R55: fields an operation does not use may hold any value: the trace, the place of the sequencer, the use of the
environment and the response do not depend on them; so every command does what some command with all ignored fields
zero, the canonical form, does. Where the two commands are left waiting for the bus they stand at the same point of the
same operation, and `SameOperationRuns` says that the rest of it is the same. -/
def Obligations.IgnoredFields : Prop :=
  ∀ (s : State) (kind kind' : Nibble) (ign ign' : Bit) (addr addr' : Addr) (wdata wdata' : Byte), s.Idle →
    (∃ t u, exec (.rdreg kind ign addr wdata) s = .next t ∧ exec (.rdreg kind' ign' addr wdata') s = .next u ∧
      SameOperation t u) ∧
    (∃ t u, exec (.wrreg kind ign addr wdata) s = .next t ∧ exec (.wrreg kind' ign' addr wdata) s = .next u ∧
      SameOperation t u) ∧
    (∃ t u, exec (.init kind ign addr wdata) s = .next t ∧ exec (.init kind' ign' addr' wdata') s = .next u ∧
      SameOperation t u) ∧
    (∃ t u, exec (.hasflt kind ign addr wdata) s = .next t ∧ exec (.hasflt kind' ign' addr' wdata') s = .next u ∧
      SameOperation t u) ∧
    (∃ t u, exec (.rdmeas kind ign addr wdata) s = .next t ∧ exec (.rdmeas kind ign' addr' wdata') s = .next u ∧
      SameOperation t u) ∧
    (∀ i, isCommand i = true → ∃ c, c.canonical = true ∧
      ∃ t u, exec i s = .next t ∧ exec c s = .next u ∧ SameOperation t u)

/-- R10, R11, R135: what a command does at the interface depends on the environment's answers alone. From two idle
states with the same environment and ANY registers and history, the same command gives the same outcome; left waiting,
the two stand at the same point of the same operation, and `SameOperationRuns` says that the rest is the same. -/
def Obligations.NothingPersists : Prop :=
  ∀ (i : Instr) (s u : State), isCommand i = true → s.Idle → u.Idle → s.env = u.env →
    ∃ s' u', exec i s = .next s' ∧ exec i u = .next u' ∧ SameOperation s' u'

/-- R11, R55, R122: the rest of an operation reads nothing but what `SameOperation` names. Of two states at the same point
of the same operation, in which every register the rest of it does not read may differ, the steps are of the same kind
and lead to two such states again; and so for any number of steps, over the end of the operation and the commands
accepted after it. -/
def Obligations.SameOperationRuns : Prop :=
  (∀ s u : State, SameOperation s u →
    (∀ s', step s = .next s' → ∃ u', step u = .next u' ∧ SameOperation s' u') ∧
    (∀ f, step s = .fault f → step u = .fault f)) ∧
  (∀ (n : Nat) (s u s' : State), SameOperation s u → Host.Core.run Sys2Proof.core n s = .next s' →
    ∃ u', Host.Core.run Sys2Proof.core n u = .next u' ∧ SameOperation s' u')

/-- R130: an instruction ends only with a status its row of the table of conditions gives it, whatever the bus answers;
with a status other than `OK` the data is zero (R132), and the response is the last event of the trace (R131). The
first clause is the operation that responds within the `exec` that accepted it. The second is one that does not: its
state is busy, and all it may still end with is in the instruction's row. The third is every step of a busy state: it
ends the operation with a status that the place it had reached allows, or leads to a place that allows no other. -/
def Obligations.StatusesRaised : Prop :=
  (∀ (i : Instr) (s t : State), s.Idle → exec i s = .next t → t.regs.rspValid = true →
    mayEndWith i t.regs.rspStatus = true ∧
    (t.regs.rspStatus ≠ .ok → t.regs.rspData = 0x0000#16) ∧
    t.trace.getLast? = some (.rsp t.regs.rspStatus t.regs.rspData) ∧ t.Idle) ∧
  (∀ (i : Instr) (s t : State), s.Idle → exec i s = .next t → t.regs.rspValid = false →
    t.regs.seq ≠ .idle ∧ ∀ st, t.regs.seq.mayEndWith st = true → mayEndWith i st = true) ∧
  (∀ s t : State, s.Inv → s.regs.seq ≠ .idle → (s.env.callerAt 0).rst = false → step s = .next t →
    (t.regs.rspValid = true →
      s.regs.seq.mayEndWith t.regs.rspStatus = true ∧
      (t.regs.rspStatus ≠ .ok → t.regs.rspData = 0x0000#16) ∧
      t.trace.getLast? = some (.rsp t.regs.rspStatus t.regs.rspData) ∧ t.Idle) ∧
    (t.regs.rspValid = false →
      t.regs.seq ≠ .idle ∧ ∀ st, t.regs.seq.mayEndWith st = true → s.regs.seq.mayEndWith st = true))

/-- R151's fairness premise is enough: from idle, with the next twelve exchanges completing, every command runs to its
response in one step and leaves the block idle. -/
def Obligations.CommandsRespond : Prop :=
  ∀ (i : Instr) (s : State), isCommand i = true → s.Idle → s.Completes 12 →
    ∃ t, exec i s = .next t ∧ t.Idle ∧ t.regs.rspValid = true

/-- The frame of the bus commands and of the two frames: what RDREG, WRREG, INIT, HASFLT, RD_FRAME and WR_FRAME leave
unchanged whenever they give a next state, responded or still waiting for the bus. The two RTD registers, the
caller's script and the data-ready levels are untouched; `OP`, `KIND`, `ADDR`, `WDATA` hold what the command word
gave, or for a frame what they held; with no response the response registers keep status and data (R20). -/
def Obligations.BusCommandsFrame : Prop :=
  ∀ (i : Instr) (s t : State) (kind : Nibble) (ign : Bit) (addr a : Addr) (wdata d : Byte),
    i = .rdreg kind ign addr wdata ∨ i = .wrreg kind ign addr wdata ∨ i = .init kind ign addr wdata ∨
      i = .hasflt kind ign addr wdata ∨ i = .rdFrame a ∨ i = .wrFrame a d →
    exec i s = .next t →
    t.regs.lsb = s.regs.lsb ∧ t.regs.msb = s.regs.msb ∧
    t.env.caller = s.env.caller ∧ t.env.callerTick = s.env.callerTick ∧
    t.env.levels = s.env.levels ∧ t.env.levelTick = s.env.levelTick ∧
    (isCommand i = false → t.regs.seq = s.regs.seq ∧ t.regs.op = s.regs.op ∧ t.regs.kind = s.regs.kind ∧
      t.regs.addr = s.regs.addr ∧ t.regs.wdata = s.regs.wdata ∧
      t.regs.rspStatus = s.regs.rspStatus ∧ t.regs.rspData = s.regs.rspData) ∧
    (isCommand i = true → s.Idle → (∃ w, encode i = .cmd w ∧ t.regs.op = cmdOp w) ∧
      t.regs.kind = kind ∧ t.regs.addr = addr ∧ t.regs.wdata = wdata ∧ (t.regs.rspValid = false →
        t.regs.rspStatus = s.regs.rspStatus ∧ t.regs.rspData = s.regs.rspData))

/-- The frame of RDMEAS, RDRAW and RDTEMP: the caller's script is untouched, at most one data-ready level is used
(R92), the latched fields are the command's, and with no response the response registers keep status and data. -/
def Obligations.MeasureFrame : Prop :=
  ∀ (i : Instr) (s t : State) (kind : Nibble) (ign : Bit) (addr : Addr) (wdata : Byte), s.Idle →
    i.expand = .rdmeas kind ign addr wdata → exec i s = .next t →
    t.env.caller = s.env.caller ∧ t.env.callerTick = s.env.callerTick ∧
    (t.env.levelTick = s.env.levelTick ∨ t.env.levelTick = s.env.levelTick + 1) ∧
    t.regs.op = 0x5#4 ∧ t.regs.kind = kind ∧ t.regs.addr = addr ∧ t.regs.wdata = wdata ∧
    (t.regs.rspValid = false → t.regs.rspStatus = s.regs.rspStatus ∧ t.regs.rspData = s.regs.rspData)

/-! ### The step -/

/-- A step runs the decoded instruction: at idle, with no reset and a command word that decodes, the step is `exec` of
it on the state whose caller entry has been used (R112). With chip-select just asserted for a frame, the step is `exec` of
the frame its two bytes, those of R111, name (R113 to R115), and then what the operation does after that frame (R116).
That a frame is an instruction of its own, whose meaning ends with the frame, and that what follows is the step's, is the
model's choice (DESIGN CHOICE, notes/assumptions/7.md); and so is how much of an operation one step runs (DESIGN CHOICE,
notes/assumptions/2.md). -/
def Obligations.StepRunsDecoded : Prop :=
  (∀ (s : State) (w : CmdWord) (i : Instr), s.Idle → s.env.callerAt 0 = { rst := false, cmd := some w } →
    decode (.cmd w) = .ok i → step s = exec i (s.setEnv s.env.popCaller)) ∧
  (∀ (s : State) (i : Instr), s.regs.seq.runsFrame = true → s.regs.fe = .select →
    (s.env.callerAt 0).rst = false → decode (.wire s.regs.wireWord) = .ok i →
    ∃ t, exec i (s.setEnv s.env.popCaller) = .next t ∧ step s = .next (t.afterFrame afterRelease))

/-- R140: with `rst` high the step is the reset: every register takes its reset value whatever else is presented and
whatever is in progress, with no event and no response. That the trace is emptied is the model's choice
(notes/assumptions/5.md). -/
def Obligations.StepReset : Prop :=
  ∀ s : State, (s.env.callerAt 0).rst = true →
    step s = .next { regs := Regs.reset, env := s.env.popCaller, trace := [] }

/-- R24: the value of every register after reset, and the outputs that follow from them. -/
def Obligations.ResetValues : Prop :=
  let r := State.reset.regs
  r.seq = .idle ∧ r.fe = .idle ∧ r.rspValid = false ∧ r.rspStatus = .ok ∧ r.rspData = 0x0000#16 ∧
  r.op = 0 ∧ r.kind = 0 ∧ r.addr = 0 ∧ r.wdata = 0x00#8 ∧ r.rx = 0x00#8 ∧ r.lsb = 0x00#8 ∧ r.msb = 0x00#8 ∧
  r.cmdReady = true ∧ r.csN = true ∧ r.xferReq = false ∧ r.xferTx = 0x00#8

/-- The idle block with no command presented only clears `rsp_valid` (R112, R120). -/
def Obligations.IdleStep : Prop :=
  ∀ s : State, s.Idle → s.env.callerAt 0 = { rst := false, cmd := none } →
    step s = .next
      { regs := { s.regs with rspValid := false }, env := s.env.popCaller, trace := s.trace }

/-- R153: while an operation is in progress the command port has no effect: two states that differ only in the command
presented take the same step. -/
def Obligations.CommandWhileBusyIgnored : Prop :=
  ∀ (s : State) (c c' : Option CmdWord) (rest : List CallerInput), s.regs.seq ≠ .idle →
    step { s with env := { s.env with caller := { rst := false, cmd := c } :: rest } } =
      step { s with env := { s.env with caller := { rst := false, cmd := c' } :: rest } }

/-- R64, R151: while the partner does not complete the exchange in progress and no reset comes, the machine takes every
step and stays where it is, for any number of steps: chip-select asserted, the exchange requested, not ready for a
command, no event and no response. -/
def Obligations.HungBus : Prop :=
  ∀ (n : Nat) (s : State), s.regs.seq.runsFrame = true → s.regs.fe = .addr ∨ s.regs.fe = .data →
    (∀ k, k < n → s.env.answerAt k = none ∧ (s.env.callerAt k).rst = false) →
    ∃ t, Host.Core.run Sys2Proof.core n s = .next t ∧ t.trace = s.trace ∧
      t.regs = { s.regs with rspValid := s.regs.rspValid && n == 0 } ∧
      t.regs.csN = false ∧ t.regs.xferReq = true ∧ t.regs.xferTx = s.regs.xferTx ∧ t.regs.cmdReady = false

/-- R121: in a state that R16 excludes there is no step but reset. The fault's name is the model's choice
(notes/assumptions/7.md). -/
def Obligations.NoStepInExcludedStates : Prop :=
  ∀ s : State, pcLegal s.regs.seq s.regs.fe = false → (s.env.callerAt 0).rst = false →
    step s = .fault .noTransition

/-- Reset meets the invariant. -/
def Obligations.ResetInv : Prop := State.reset.Inv

/-- Every step keeps the invariant: the pair `(seq, fe)` stays one R16 allows, RDMEAS goes on only with a recognised
kind (R119), a response is signalled only at idle and is the last event (R131), data is zero with a status other than
`OK` (R57), and the trace of the operation is well framed: chip-select alternates with exactly two exchanges between
(R61, R65), a sample or a response only outside a frame (R134), and nothing after the response (R132). -/
def Obligations.StepKeepsInv : Prop :=
  ∀ s t : State, s.Inv → step s = .next t → t.Inv

/-- From every state that meets the invariant the machine takes a step: no fault and no refusal is ever reached. -/
def Obligations.InvStateSteps : Prop := ∀ s : State, s.Inv → ∃ t, step s = .next t

/-- R20: a step that ends no operation keeps `rsp_status` and `rsp_data`, unless it is a reset. -/
def Obligations.ResponseHeld : Prop :=
  ∀ s t : State, (s.env.callerAt 0).rst = false → step s = .next t → t.regs.rspValid = false →
    t.regs.rspStatus = s.regs.rspStatus ∧ t.regs.rspData = s.regs.rspData

/-! ### The cycle level -/

/-- R111: the outputs are functions of the current state, with the two bytes of every frame-running state. -/
def Obligations.Outputs : Prop :=
  ∀ r : Regs, (r.cmdReady = true ↔ r.seq = .idle) ∧
    (r.csN = false ↔ r.fe = .select ∨ r.fe = .addr ∨ r.fe = .data) ∧
    (r.xferReq = true ↔ r.fe = .addr ∨ r.fe = .data) ∧
    (r.fe = .addr → r.xferTx = r.abyte) ∧ (r.fe = .data → r.xferTx = r.dbyte) ∧
    (r.fe ≠ .addr → r.fe ≠ .data → r.xferTx = 0x00#8) ∧
    (r.seq = .rdreg → r.abyte = 0#1 ++ r.addr ∧ r.dbyte = 0xFF#8) ∧
    (r.seq = .wrreg → r.abyte = 1#1 ++ r.addr ∧ r.dbyte = r.wdata) ∧
    (r.seq = .initCW → r.abyte = 0x80#8 ∧ r.dbyte = 0x80#8) ∧
    (r.seq = .initCR → r.abyte = 0x00#8 ∧ r.dbyte = 0xFF#8) ∧
    (r.seq = .initHM → r.abyte = 0x83#8 ∧ r.dbyte = 0xFF#8) ∧
    (r.seq = .initHL → r.abyte = 0x84#8 ∧ r.dbyte = 0xFF#8) ∧
    (r.seq = .initLM → r.abyte = 0x85#8 ∧ r.dbyte = 0x00#8) ∧
    (r.seq = .initLL → r.abyte = 0x86#8 ∧ r.dbyte = 0x00#8) ∧
    (r.seq = .hasflt → r.abyte = 0x02#8 ∧ r.dbyte = 0xFF#8) ∧
    (r.seq = .measLsb → r.abyte = 0x02#8 ∧ r.dbyte = 0xFF#8) ∧
    (r.seq = .measMsb → r.abyte = 0x01#8 ∧ r.dbyte = 0xFF#8)

/-- R112: the edge of the idle block. With no command nothing changes but `rsp_valid`; with one, its four fields are
latched and the operation code says what begins or what is answered at once. At any other edge with no reset nothing is
accepted: the four latched fields keep their values. -/
def Obligations.AcceptEdge : Prop :=
  (∀ (inp : Inputs) (r l : Regs), inp.rst = false → r.seq = .idle → r.fe = .idle →
    l = { r with
      op := inp.cmd.extractLsb' 20 4, kind := inp.cmd.extractLsb' 16 4
      addr := inp.cmd.extractLsb' 8 7, wdata := inp.cmd.extractLsb' 0 8, rspValid := false } →
    (inp.cmdValid = false → edge inp r = some ({ r with rspValid := false }, [])) ∧
    (inp.cmdValid = true →
      (l.op = 0x1#4 → edge inp r = some ({ l with seq := .rdreg, fe := .select }, [.csLow])) ∧
      (l.op = 0x2#4 → edge inp r = some ({ l with seq := .wrreg, fe := .select }, [.csLow])) ∧
      (l.op = 0x3#4 → edge inp r = some ({ l with seq := .initCW, fe := .select }, [.csLow])) ∧
      (l.op = 0x4#4 → edge inp r = some ({ l with seq := .hasflt, fe := .select }, [.csLow])) ∧
      (l.op = 0x5#4 → l.kind = 0x0#4 ∨ l.kind = 0x1#4 → edge inp r = some ({ l with seq := .measChk }, [])) ∧
      (l.op = 0x5#4 → l.kind ≠ 0x0#4 → l.kind ≠ 0x1#4 → edge inp r = some
        ({ l with rspValid := true, rspStatus := .invalidKind, rspData := 0x0000#16 },
          [.rsp .invalidKind 0x0000#16])) ∧
      (l.op = 0x0#4 ∨ 0x6#4 ≤ l.op → edge inp r = some
        ({ l with rspValid := true, rspStatus := .badOp, rspData := 0x0000#16 }, [.rsp .badOp 0x0000#16])))) ∧
  (∀ (inp : Inputs) (r r' : Regs) (ev : List Event), inp.rst = false → r.seq ≠ .idle ∨ inp.cmdValid = false →
    edge inp r = some (r', ev) →
    r'.op = r.op ∧ r'.kind = r.kind ∧ r'.addr = r.addr ∧ r'.wdata = r.wdata)

/-- R113, R114, R115: the edges inside a frame, in every frame-running state. `F_SELECT`, whose entry is the event
`CsLow`, lasts one cycle with chip-select asserted and no exchange requested; `F_ADDR` and `F_DATA` wait for `xfer_done`
with nothing changing, for any number of edges; the byte of the first exchange is not stored, that of the second is. -/
def Obligations.FrameEdges : Prop :=
  (∀ (inp : Inputs) (r : Regs), inp.rst = false → r.seq.runsFrame = true →
    (r.fe = .select → r.csN = false ∧ r.xferReq = false ∧
      edge inp r = some ({ r with fe := .addr, rspValid := false }, [])) ∧
    (r.fe = .addr → inp.xferDone = true →
      edge inp r = some ({ r with fe := .data, rspValid := false }, [.x r.abyte inp.xferRx])) ∧
    (r.fe = .data → inp.xferDone = true → edge inp r = some
      ({ r with fe := .release, rx := inp.xferRx, rspValid := false }, [.x r.dbyte inp.xferRx, .csHigh])) ∧
    (r.fe = .addr ∨ r.fe = .data → ∀ w : List Inputs, (∀ i ∈ w, i.rst = false ∧ i.xferDone = false) →
      edges w r = some ({ r with rspValid := r.rspValid && w.isEmpty }, []))) ∧
  (∀ (inp : Inputs) (r r' : Regs) (ev : List Event), edge inp r = some (r', ev) →
    (r'.fe = .select ↔ Event.csLow ∈ ev))

/-- R116: `F_RELEASE`, whose entry is the event `CsHigh`, lasts one cycle with chip-select deasserted and no exchange
requested; the edge that ends it, by the sequencer state. -/
def Obligations.ReleaseEdges : Prop :=
  (∀ (inp : Inputs) (r r' : Regs) (ev : List Event), edge inp r = some (r', ev) →
    (r'.fe = .release ↔ Event.csHigh ∈ ev)) ∧
  (∀ (inp : Inputs) (r q : Regs), inp.rst = false → r.fe = .release → q = { r with rspValid := false } →
    r.csN = true ∧ r.xferReq = false ∧
    (r.seq = .rdreg → edge inp r = some
      ({ q with seq := .idle, fe := .idle, rspValid := true, rspStatus := .ok, rspData := 0x00#8 ++ r.rx },
        [.rsp .ok (0x00#8 ++ r.rx)])) ∧
    (r.seq = .wrreg → edge inp r = some
      ({ q with seq := .idle, fe := .idle, rspValid := true, rspStatus := .ok, rspData := 0x0000#16 },
        [.rsp .ok 0x0000#16])) ∧
    (r.seq = .initCW → edge inp r = some ({ q with seq := .initCR, fe := .select }, [.csLow])) ∧
    (r.seq = .initCR → r.rx = 0x80#8 → edge inp r = some ({ q with seq := .initHM, fe := .select }, [.csLow])) ∧
    (r.seq = .initCR → r.rx ≠ 0x80#8 → edge inp r = some
      ({ q with seq := .idle, fe := .idle, rspValid := true, rspStatus := .linkFail, rspData := 0x0000#16 },
        [.rsp .linkFail 0x0000#16])) ∧
    (r.seq = .initHM → edge inp r = some ({ q with seq := .initHL, fe := .select }, [.csLow])) ∧
    (r.seq = .initHL → edge inp r = some ({ q with seq := .initLM, fe := .select }, [.csLow])) ∧
    (r.seq = .initLM → edge inp r = some ({ q with seq := .initLL, fe := .select }, [.csLow])) ∧
    (r.seq = .initLL → edge inp r = some
      ({ q with seq := .idle, fe := .idle, rspValid := true, rspStatus := .ok, rspData := 0x0001#16 },
        [.rsp .ok 0x0001#16])) ∧
    (r.seq = .hasflt → edge inp r = some
      ({ q with seq := .idle, fe := .idle, rspValid := true, rspStatus := .ok
                rspData := if r.rx.getLsbD 0 then 0x0001#16 else 0x0000#16 },
        [.rsp .ok (if r.rx.getLsbD 0 then 0x0001#16 else 0x0000#16)])) ∧
    (r.seq = .measLsb → edge inp r = some ({ q with seq := .measMsb, fe := .select, lsb := r.rx }, [.csLow])) ∧
    (r.seq = .measMsb → edge inp r = some ({ q with seq := .measFlt, fe := .idle, msb := r.rx }, [])))

/-- R117, R118, R119: the edges of the three states of RDMEAS that run no frame. Only the first looks at data-ready.
Every edge keeps it so that RDMEAS is in progress only with kind 0 or 1, so the last sees no other kind. -/
def Obligations.MeasureEdges : Prop :=
  (∀ (inp : Inputs) (r q : Regs) (raw : RawCode), inp.rst = false → r.fe = .idle →
    q = { r with rspValid := false } → raw = r.msb ++ r.lsb.extractLsb' 1 7 →
    (r.seq = .measChk → inp.drdyN = 1#1 → edge inp r = some
      ({ q with seq := .idle, rspValid := true, rspStatus := .notReady, rspData := 0x0000#16 },
        [.d 1#1, .rsp .notReady 0x0000#16])) ∧
    (r.seq = .measChk → inp.drdyN = 0#1 → edge inp r = some
      ({ q with seq := .measLsb, fe := .select }, [.d 0#1, .csLow])) ∧
    (r.seq = .measFlt → r.lsb.getLsbD 0 = true → edge inp r = some
      ({ q with seq := .idle, rspValid := true, rspStatus := .fault, rspData := 0x0000#16 },
        [.rsp .fault 0x0000#16])) ∧
    (r.seq = .measFlt → r.lsb.getLsbD 0 = false → edge inp r = some ({ q with seq := .measDec }, [])) ∧
    (r.seq = .measDec → r.kind = 0x0#4 → edge inp r = some
      ({ q with seq := .idle, rspValid := true, rspStatus := .ok, rspData := raw.setWidth 16 },
        [.rsp .ok (raw.setWidth 16)])) ∧
    (r.seq = .measDec → r.kind = 0x1#4 → edge inp r = some
      ({ q with seq := .idle, rspValid := true, rspStatus := .ok
                rspData := BitVec.ofInt 16 ((((10 * raw.toNat) >>> 5 : Nat) : Int) - 2560) },
        [.rsp .ok (BitVec.ofInt 16 ((((10 * raw.toNat) >>> 5 : Nat) : Int) - 2560))]))) ∧
  (∀ (inp : Inputs) (r r' : Regs) (ev : List Event), edge inp r = some (r', ev) →
    (r.seq.measuring = true → r.kind = 0x0#4 ∨ r.kind = 0x1#4) →
    r'.seq.measuring = true → r'.kind = 0x0#4 ∨ r'.kind = 0x1#4) ∧
  (∀ (inp : Inputs) (r : Regs) (level : Bit), r.seq ≠ .measChk → edge { inp with drdyN := level } r = edge inp r)

/-- R42, R117, R124, R136, R153: which inputs an edge looks at. The command port matters only at `S_IDLE`, the exchange
port only while an exchange is requested, data-ready only in `S_MEAS_CHK`; an edge with other levels on the rest is the
same edge. -/
def Obligations.InputsIgnored : Prop :=
  ∀ (inp inp' : Inputs) (r : Regs), inp.rst = inp'.rst →
    (r.seq = .idle → inp.cmdValid = inp'.cmdValid ∧ inp.cmd = inp'.cmd) →
    (r.xferReq = true → inp.xferDone = inp'.xferDone ∧ inp.xferRx = inp'.xferRx) →
    (r.seq = .measChk → inp.drdyN = inp'.drdyN) →
    edge inp r = edge inp' r

/-- R122: no operation sees a value a data register or a response register held before it began. From two idle register
files the same inputs, for any number of edges and any number of operations, make the same moves of `(seq, fe)` and the
same events. -/
def Obligations.WriteBeforeRead : Prop :=
  ∀ (ins : List Inputs) (r u : Regs), r.seq = .idle → r.fe = .idle → u.seq = .idle → u.fe = .idle →
    ∃ r' u' ev, edges ins r = some (r', ev) ∧ edges ins u = some (u', ev) ∧
      r'.seq = u'.seq ∧ r'.fe = u'.fe ∧ (ins ≠ [] → r'.rspValid = u'.rspValid)

/-- R140 at the cycle level: reset has priority over every input, in every state, and produces no event and no response;
every register takes the value of R24, and chip-select is deasserted in the next cycle even if a frame was open (R141). -/
def Obligations.EdgeReset : Prop :=
  ∀ (inp : Inputs) (r : Regs), inp.rst = true → ∃ r', edge inp r = some (r', []) ∧
    r'.seq = .idle ∧ r'.fe = .idle ∧ r'.rspValid = false ∧ r'.rspStatus = .ok ∧ r'.rspData = 0x0000#16 ∧
    r'.op = 0 ∧ r'.kind = 0 ∧ r'.addr = 0 ∧ r'.wdata = 0 ∧ r'.rx = 0 ∧ r'.lsb = 0 ∧ r'.msb = 0 ∧
    r'.csN = true ∧ r'.xferReq = false ∧ r'.xferTx = 0x00#8 ∧ r'.cmdReady = true

/-- R16: from every pair it allows, an edge leads to a pair it allows. -/
def Obligations.EdgeKeepsPcLegal : Prop :=
  ∀ (inp : Inputs) (r r' : Regs) (ev : List Event), pcLegal r.seq r.fe = true → edge inp r = some (r', ev) →
    pcLegal r'.seq r'.fe = true

/-- R120: at an edge with no reset, `rsp_valid` goes high exactly when an operation ends at it, which is then the
event `Rsp` of the response registers' new values; otherwise status and data keep their values. -/
def Obligations.EdgeResponse : Prop :=
  ∀ (inp : Inputs) (r r' : Regs) (ev : List Event), inp.rst = false → edge inp r = some (r', ev) →
    (r'.rspValid = true → ev.getLast? = some (.rsp r'.rspStatus r'.rspData) ∧ r'.seq = .idle ∧ r'.fe = .idle) ∧
    (r'.rspValid = false → r'.rspStatus = r.rspStatus ∧ r'.rspData = r.rspData ∧ ∀ st d, .rsp st d ∉ ev)

/-- R125: from the cycle after `CsLow`, a frame whose exchanges take `Ta` and `Td` cycles reaches `F_RELEASE` after
`1 + Ta + Td` edges, whatever else the inputs show, with its two exchanges and `CsHigh` as events. -/
def Obligations.FrameCycles : Prop :=
  ∀ (r : Regs) (i0 ia id : Inputs) (wa wd : List Inputs), r.seq.runsFrame = true → r.fe = .select →
    (∀ i ∈ i0 :: ia :: id :: (wa ++ wd), i.rst = false) →
    (∀ i ∈ wa ++ wd, i.xferDone = false) → ia.xferDone = true → id.xferDone = true →
    edges (i0 :: (wa ++ ia :: (wd ++ [id]))) r =
      some ({ r with fe := .release, rx := id.xferRx, rspValid := false },
        [.x r.abyte ia.xferRx, .x r.dbyte id.xferRx, .csHigh])

/-- R123, the refinement: take any edges of the sequencer from idle, the first accepting a command word, the rest with
the block busy before each and no reset, after which the block is idle again, or stands in `F_ADDR` or `F_DATA` where the
environment's next sample completes no exchange. Then the transaction-level machine, given the bytes the exchanges
received and the levels sampled, runs that command as far, in one go, to the same registers with exactly the events of
those edges as its trace and just those samples used. However long the partner makes each exchange wait is of no effect. -/
def Obligations.Refinement : Prop :=
  ∀ (s : State) (inp : Inputs) (ins : List Inputs) (r r1 : Regs) (ev ev1 : List Event), s.Idle →
    inp.rst = false → inp.cmdValid = true → (∀ i ∈ ins, i.rst = false) →
    edge inp s.regs = some (r1, ev1) → busyThroughout ins r1 = true →
    edges ins r1 = some (r, ev) → s.env.EndsAt (bytesReceived ins r1).length r →
    s.Answers (bytesReceived ins r1) →
    (∀ k l, (levelsSampled ins r1)[k]? = some l → s.env.levelAt k = l) →
    runCommand inp.cmd s = .next
      { regs := r
        env := s.env.used (samplesTaken (bytesReceived ins r1).length r) (levelsSampled ins r1).length
        trace := ev1 ++ ev }

/-- R113 to R120, R123: an operation that waited, or stands anywhere else in its course, goes on exactly as the sequencer
does. From EVERY busy state R16 allows, in every sequencer state and frame phase: take any edges with the block busy
before each and no reset, after which the block is idle again, or stands in `F_ADDR` or `F_DATA` where the environment's
next sample completes no exchange. Then one step of the machine, given the bytes those exchanges received and the levels
sampled, leads to the same registers and adds exactly the events of those edges to the trace. So no frame of the rest of
the operation is skipped, repeated or changed by a wait. How far one step runs is the model's choice
(notes/assumptions/2.md). -/
def Obligations.StepGoesOn : Prop :=
  ∀ (s : State) (ins : List Inputs) (r : Regs) (ev : List Event),
    pcLegal s.regs.seq s.regs.fe = true → s.regs.seq ≠ .idle → (s.env.callerAt 0).rst = false →
    ins ≠ [] → (∀ i ∈ ins, i.rst = false) → busyThroughout ins s.regs = true →
    edges ins s.regs = some (r, ev) → s.env.EndsAt (bytesReceived ins s.regs).length r →
    s.Answers (bytesReceived ins s.regs) →
    (∀ k l, (levelsSampled ins s.regs)[k]? = some l → s.env.levelAt k = l) →
    step s = .next
      { regs := r
        env := s.env.popCaller.used (samplesTaken (bytesReceived ins s.regs).length r)
          (levelsSampled ins s.regs).length
        trace := s.trace ++ ev }

/-- R80, R82, R116: INIT goes on at the frame it waited in. From `F_DATA` of each of its six frames, with the exchanges
left answered, one step sends just the frames that are left, in order, and answers `(OK, 0x0001)`; from the read-back
with any byte but `0x80` it sends none and answers `(LINK_FAIL, 0x0000)`. The counterpart of InitResult for an operation
that waited; how far one step runs is the model's choice (notes/assumptions/2.md). -/
def Obligations.InitGoesOn : Prop :=
  ∀ (s : State) (b r2 r3 b3 r4 b4 r5 b5 r6 b6 : Byte) (fHM fHL fLM fLL : List Event),
    s.regs.fe = .data → (s.env.callerAt 0).rst = false →
    fHM = [.csLow, .x 0x83#8 r3, .x 0xFF#8 b3, .csHigh] → fHL = [.csLow, .x 0x84#8 r4, .x 0xFF#8 b4, .csHigh] →
    fLM = [.csLow, .x 0x85#8 r5, .x 0x00#8 b5, .csHigh] → fLL = [.csLow, .x 0x86#8 r6, .x 0x00#8 b6, .csHigh] →
    (s.regs.seq = .initCW → s.Answers [b, r2, 0x80#8, r3, b3, r4, b4, r5, b5, r6, b6] →
      ∃ t, step s = .next t ∧ t.Idle ∧ t.trace = s.trace ++ [.x 0x80#8 b, .csHigh] ++
        [.csLow, .x 0x00#8 r2, .x 0xFF#8 0x80#8, .csHigh] ++ fHM ++ fHL ++ fLM ++ fLL ++ [.rsp .ok 0x0001#16]) ∧
    (s.regs.seq = .initCR → s.Answers [0x80#8, r3, b3, r4, b4, r5, b5, r6, b6] →
      ∃ t, step s = .next t ∧ t.Idle ∧ t.trace = s.trace ++ [.x 0xFF#8 0x80#8, .csHigh] ++
        fHM ++ fHL ++ fLM ++ fLL ++ [.rsp .ok 0x0001#16]) ∧
    (s.regs.seq = .initCR → s.Answers [b] → b ≠ 0x80#8 →
      ∃ t, step s = .next t ∧ t.Idle ∧ t.trace = s.trace ++ [.x 0xFF#8 b, .csHigh, .rsp .linkFail 0x0000#16]) ∧
    (s.regs.seq = .initHM → s.Answers [b, r4, b4, r5, b5, r6, b6] →
      ∃ t, step s = .next t ∧ t.Idle ∧ t.trace = s.trace ++ [.x 0xFF#8 b, .csHigh] ++
        fHL ++ fLM ++ fLL ++ [.rsp .ok 0x0001#16]) ∧
    (s.regs.seq = .initHL → s.Answers [b, r5, b5, r6, b6] →
      ∃ t, step s = .next t ∧ t.Idle ∧ t.trace = s.trace ++ [.x 0xFF#8 b, .csHigh] ++
        fLM ++ fLL ++ [.rsp .ok 0x0001#16]) ∧
    (s.regs.seq = .initLM → s.Answers [b, r6, b6] →
      ∃ t, step s = .next t ∧ t.Idle ∧ t.trace = s.trace ++ [.x 0x00#8 b, .csHigh] ++
        fLL ++ [.rsp .ok 0x0001#16]) ∧
    (s.regs.seq = .initLL → s.Answers [b] →
      ∃ t, step s = .next t ∧ t.Idle ∧ t.trace = s.trace ++ [.x 0x00#8 b, .csHigh, .rsp .ok 0x0001#16])
end

