-- ==== Sys2Proof/Laws/Conversion.lean ====
section
/-! SUPPORT. What the flag and the conversion pipeline compute, as numbers. -/

namespace Sys2Proof.Machine

/-- The fault flag is set exactly where masking with `0x01` leaves it (R93). -/
theorem faultBit_eq_one_iff (l : Byte) : faultBit l = 1#1 ↔ l &&& 0x01#8 = 0x01#8 := by
  revert l; decide

/-- Masking with `0x01` leaves one of two bytes. -/
theorem and_one_cases (l : Byte) : l &&& 0x01#8 = 0x01#8 ∨ l &&& 0x01#8 = 0x00#8 := by
  revert l; decide

/-- The response data of HASFLT (R85, R86). -/
theorem faultBit_setWidth (l : Byte) : (faultBit l).setWidth 16 = (l &&& 0x01#8).setWidth 16 := by
  revert l; decide

/-- The raw code as a number: the spec's expression (R94). -/
theorem rawCode_toNat (m l : Byte) :
    (rawCode m l).toNat = (m.toNat <<< 7) ||| ((l.toNat &&& 0xFE) >>> 1) := by
  have h1 : l.toNat &&& 0xFE = (l &&& 0xFE#8).toNat := by simp
  have h2 : l.extractLsb' 1 7 = ((l &&& 0xFE#8) >>> 1).setWidth 7 := by revert l; decide
  have h3 : ((l &&& 0xFE#8) >>> 1).toNat < 2 ^ 7 := by revert l; decide
  rw [h1, ← BitVec.toNat_ushiftRight]
  unfold rawCode
  rw [BitVec.toNat_append, h2, BitVec.toNat_setWidth, Nat.mod_eq_of_lt h3]

/-- The temperature as a number: the spec's expression (R95). -/
theorem temperatureTenths_eq (raw : RawCode) :
    temperatureTenths raw = (((10 * raw.toNat) >>> 5 : Nat) : Int) - 2560 := rfl

end Sys2Proof.Machine
end

