-- ==== Sys2Proof/Laws/Decode.lean ====
section
/-! SUPPORT. The fields of a packed word, and a word packed from its fields, through the numbers they stand for. -/

namespace Sys2Proof

/-- Concatenation as arithmetic. -/
theorem toNat_append_eq_add {n m : Nat} (x : BitVec n) (y : BitVec m) :
    (x ++ y).toNat = x.toNat * 2 ^ m + y.toNat := by
  rw [BitVec.toNat_append, ← Nat.shiftLeft_add_eq_or_of_lt y.isLt, Nat.shiftLeft_eq]

/-- A command word as a number (R52). -/
theorem packCmd_toNat (op kind : Nibble) (ign : Bit) (addr : Addr) (wdata : Byte) :
    (packCmd op kind ign addr wdata).toNat =
      op.toNat * 2 ^ 20 + kind.toNat * 2 ^ 16 + ign.toNat * 2 ^ 15 + addr.toNat * 2 ^ 8 + wdata.toNat := by
  have h1 := toNat_append_eq_add (op ++ kind ++ ign ++ addr) wdata
  rw [toNat_append_eq_add (op ++ kind ++ ign) addr, toNat_append_eq_add (op ++ kind) ign,
    toNat_append_eq_add op kind] at h1
  refine Eq.trans h1 ?_
  ring

/-- A frame's sent bits as a number (R50). -/
theorem packWire_toNat (dir : Bit) (a : Addr) (d : Byte) :
    (packWire dir a d).toNat = dir.toNat * 2 ^ 15 + a.toNat * 2 ^ 8 + d.toNat := by
  have h1 := toNat_append_eq_add (dir ++ a) d
  rw [toNat_append_eq_add dir a] at h1
  refine Eq.trans h1 ?_
  ring

/-- The five fields of a command word as numbers (R52). -/
theorem cmd_fields_toNat (w : CmdWord) :
    (cmdOp w).toNat = w.toNat / 2 ^ 20 % 2 ^ 4 ∧ (cmdKind w).toNat = w.toNat / 2 ^ 16 % 2 ^ 4 ∧
    (cmdIgn w).toNat = w.toNat / 2 ^ 15 % 2 ∧ (cmdAddr w).toNat = w.toNat / 2 ^ 8 % 2 ^ 7 ∧
    (cmdWdata w).toNat = w.toNat % 2 ^ 8 := by
  simp [cmdOp, cmdKind, cmdIgn, cmdAddr, cmdWdata, BitVec.extractLsb'_toNat, Nat.shiftRight_eq_div_pow]

/-- The three fields of a frame as numbers (R50). -/
theorem wire_fields_toNat (w : WireWord) :
    (wireDir w).toNat = w.toNat / 2 ^ 15 % 2 ∧ (wireAddr w).toNat = w.toNat / 2 ^ 8 % 2 ^ 7 ∧
    (wireData w).toNat = w.toNat % 2 ^ 8 := by
  simp [wireDir, wireAddr, wireData, BitVec.extractLsb'_toNat, Nat.shiftRight_eq_div_pow]

/-- The fields of a packed command word are the ones it was packed from (R52). -/
theorem packCmd_fields (op kind : Nibble) (ign : Bit) (addr : Addr) (wdata : Byte) :
    cmdOp (packCmd op kind ign addr wdata) = op ∧ cmdKind (packCmd op kind ign addr wdata) = kind ∧
    cmdIgn (packCmd op kind ign addr wdata) = ign ∧ cmdAddr (packCmd op kind ign addr wdata) = addr ∧
    cmdWdata (packCmd op kind ign addr wdata) = wdata := by
  obtain ⟨h1, h2, h3, h4, h5⟩ := cmd_fields_toNat (packCmd op kind ign addr wdata)
  rw [packCmd_toNat] at h1 h2 h3 h4 h5
  refine ⟨?_, ?_, ?_, ?_, ?_⟩ <;> apply BitVec.eq_of_toNat_eq <;> omega

/-- The fields of a packed frame are the ones it was packed from (R50). -/
theorem packWire_fields (dir : Bit) (a : Addr) (d : Byte) :
    wireDir (packWire dir a d) = dir ∧ wireAddr (packWire dir a d) = a ∧ wireData (packWire dir a d) = d := by
  obtain ⟨h1, h2, h3⟩ := wire_fields_toNat (packWire dir a d)
  rw [packWire_toNat] at h1 h2 h3
  refine ⟨?_, ?_, ?_⟩ <;> apply BitVec.eq_of_toNat_eq <;> omega

/-- A command word is packed from its own fields (R52). -/
theorem packCmd_of_fields (w : CmdWord) :
    packCmd (cmdOp w) (cmdKind w) (cmdIgn w) (cmdAddr w) (cmdWdata w) = w := by
  obtain ⟨h1, h2, h3, h4, h5⟩ := cmd_fields_toNat w
  apply BitVec.eq_of_toNat_eq
  rw [packCmd_toNat, h1, h2, h3, h4, h5]
  omega

/-- A frame is packed from its own fields (R50). -/
theorem packWire_of_fields (w : WireWord) : packWire (wireDir w) (wireAddr w) (wireData w) = w := by
  obtain ⟨h1, h2, h3⟩ := wire_fields_toNat w
  apply BitVec.eq_of_toNat_eq
  rw [packWire_toNat, h1, h2, h3]
  omega

/-- The mask of the five operations keeps the operation code (R53). -/
theorem cmd_and_op_mask (w : CmdWord) : w &&& 0xF00000#24 = cmdOp w ++ 0x00000#20 := by
  apply BitVec.eq_of_getLsbD_eq
  intro i hi
  rw [BitVec.getLsbD_and, BitVec.getLsbD_append]
  interval_cases i <;> simp [cmdOp]

/-- The mask of the two pseudo-instructions keeps the operation code and the kind (R58). -/
theorem cmd_and_op_kind_mask (w : CmdWord) : w &&& 0xFF0000#24 = cmdOp w ++ cmdKind w ++ 0x0000#16 := by
  apply BitVec.eq_of_getLsbD_eq
  intro i hi
  rw [BitVec.getLsbD_and, BitVec.getLsbD_append, BitVec.getLsbD_append]
  interval_cases i <;> simp [cmdOp, cmdKind]

/-- The mask of the read frame keeps the direction and the second byte (R50). -/
theorem wire_and_read_mask (w : WireWord) : w &&& 0x80FF#16 = wireDir w ++ 0x00#7 ++ wireData w := by
  apply BitVec.eq_of_getLsbD_eq
  intro i hi
  rw [BitVec.getLsbD_and, BitVec.getLsbD_append, BitVec.getLsbD_append]
  interval_cases i <;> simp [wireDir, wireData]

/-- The mask of the write frame keeps the direction (R50). -/
theorem wire_and_write_mask (w : WireWord) : w &&& 0x8000#16 = wireDir w ++ 0x0000#15 := by
  apply BitVec.eq_of_getLsbD_eq
  intro i hi
  rw [BitVec.getLsbD_and, BitVec.getLsbD_append]
  interval_cases i <;> simp [wireDir]

end Sys2Proof
end

