-- ==== Sys2Proof/Laws/State.lean ====
section
/-! SUPPORT. The small laws of the state: one lemma per component and update, true by rfl, and the laws of the
environment's queues. -/

namespace Sys2Proof.Machine

/-! ### Components of each update -/

@[simp] theorem State.setPc_regs (s : State) (q : SeqState) (f : FramePhase) :
    (s.setPc q f).regs = { s.regs with seq := q, fe := f } := rfl
@[simp] theorem State.setPc_env (s : State) (q : SeqState) (f : FramePhase) : (s.setPc q f).env = s.env := rfl
@[simp] theorem State.setPc_trace (s : State) (q : SeqState) (f : FramePhase) : (s.setPc q f).trace = s.trace := rfl

@[simp] theorem State.setFe_regs (s : State) (f : FramePhase) : (s.setFe f).regs = { s.regs with fe := f } := rfl
@[simp] theorem State.setFe_env (s : State) (f : FramePhase) : (s.setFe f).env = s.env := rfl
@[simp] theorem State.setFe_trace (s : State) (f : FramePhase) : (s.setFe f).trace = s.trace := rfl

@[simp] theorem State.setRx_regs (s : State) (b : Byte) : (s.setRx b).regs = { s.regs with rx := b } := rfl
@[simp] theorem State.setRx_env (s : State) (b : Byte) : (s.setRx b).env = s.env := rfl
@[simp] theorem State.setRx_trace (s : State) (b : Byte) : (s.setRx b).trace = s.trace := rfl

@[simp] theorem State.setLsb_regs (s : State) (b : Byte) : (s.setLsb b).regs = { s.regs with lsb := b } := rfl
@[simp] theorem State.setLsb_env (s : State) (b : Byte) : (s.setLsb b).env = s.env := rfl
@[simp] theorem State.setLsb_trace (s : State) (b : Byte) : (s.setLsb b).trace = s.trace := rfl

@[simp] theorem State.setMsb_regs (s : State) (b : Byte) : (s.setMsb b).regs = { s.regs with msb := b } := rfl
@[simp] theorem State.setMsb_env (s : State) (b : Byte) : (s.setMsb b).env = s.env := rfl
@[simp] theorem State.setMsb_trace (s : State) (b : Byte) : (s.setMsb b).trace = s.trace := rfl

@[simp] theorem State.log_regs (s : State) (e : Event) : (s.log e).regs = s.regs := rfl
@[simp] theorem State.log_env (s : State) (e : Event) : (s.log e).env = s.env := rfl
@[simp] theorem State.log_trace (s : State) (e : Event) : (s.log e).trace = s.trace ++ [e] := rfl

@[simp] theorem State.quiet_regs (s : State) : s.quiet.regs = { s.regs with rspValid := false } := rfl
@[simp] theorem State.quiet_env (s : State) : s.quiet.env = s.env := rfl
@[simp] theorem State.quiet_trace (s : State) : s.quiet.trace = s.trace := rfl

@[simp] theorem State.setEnv_regs (s : State) (e : Env) : (s.setEnv e).regs = s.regs := rfl
@[simp] theorem State.setEnv_env (s : State) (e : Env) : (s.setEnv e).env = e := rfl
@[simp] theorem State.setEnv_trace (s : State) (e : Env) : (s.setEnv e).trace = s.trace := rfl

@[simp] theorem State.latch_regs (s : State) (op kind : Nibble) (addr : Addr) (wdata : Byte) :
    (s.latch op kind addr wdata).regs =
      { s.regs with op := op, kind := kind, addr := addr, wdata := wdata } := rfl
@[simp] theorem State.latch_env (s : State) (op kind : Nibble) (addr : Addr) (wdata : Byte) :
    (s.latch op kind addr wdata).env = s.env := rfl
@[simp] theorem State.latch_trace (s : State) (op kind : Nibble) (addr : Addr) (wdata : Byte) :
    (s.latch op kind addr wdata).trace = [] := rfl

@[simp] theorem State.respond_regs (s : State) (st : Status) (d : RspData) :
    (s.respond st d).regs =
      { s.regs with seq := .idle, fe := .idle, rspValid := true, rspStatus := st, rspData := d } := rfl
@[simp] theorem State.respond_env (s : State) (st : Status) (d : RspData) : (s.respond st d).env = s.env := rfl
@[simp] theorem State.respond_trace (s : State) (st : Status) (d : RspData) :
    (s.respond st d).trace = s.trace ++ [.rsp st d] := rfl

@[simp] theorem State.resetBlock_regs (s : State) : s.resetBlock.regs = Regs.reset := rfl
@[simp] theorem State.resetBlock_env (s : State) : s.resetBlock.env = s.env := rfl
@[simp] theorem State.resetBlock_trace (s : State) : s.resetBlock.trace = [] := rfl

@[simp] theorem State.start_regs (s : State) (q : SeqState) :
    (s.start q).regs = { s.regs with seq := q, fe := .select } := rfl
@[simp] theorem State.start_env (s : State) (q : SeqState) : (s.start q).env = s.env := rfl
@[simp] theorem State.start_trace (s : State) (q : SeqState) : (s.start q).trace = s.trace ++ [.csLow] := rfl

/-! ### The environment's queues -/

@[simp] theorem Env.dropAnswers_callerAt (e : Env) (n k : Nat) :
    (e.dropAnswers n).callerAt k = e.callerAt k := rfl
@[simp] theorem Env.dropAnswers_levelAt (e : Env) (n k : Nat) : (e.dropAnswers n).levelAt k = e.levelAt k := rfl
@[simp] theorem Env.popLevel_answerAt (e : Env) (k : Nat) : e.popLevel.answerAt k = e.answerAt k := rfl
@[simp] theorem Env.popCaller_answerAt (e : Env) (k : Nat) : e.popCaller.answerAt k = e.answerAt k := rfl
@[simp] theorem Env.popCaller_levelAt (e : Env) (k : Nat) : e.popCaller.levelAt k = e.levelAt k := rfl

/-- The samples after `n` samples are the samples from the n-th on. -/
@[simp] theorem Env.dropAnswers_answerAt (e : Env) (n k : Nat) :
    (e.dropAnswers n).answerAt k = e.answerAt (n + k) := by
  simp [Env.dropAnswers, Env.answerAt, List.getElem?_drop, Nat.add_assoc]

/-- Samples taken one after the other add up. -/
@[simp] theorem Env.dropAnswers_dropAnswers (e : Env) (n m : Nat) :
    (e.dropAnswers n).dropAnswers m = e.dropAnswers (n + m) := by
  simp [Env.dropAnswers, List.drop_drop, Nat.add_assoc]

/-- The caller's next entry after one has been used. -/
@[simp] theorem Env.popCaller_callerAt (e : Env) (k : Nat) : e.popCaller.callerAt k = e.callerAt (k + 1) := by
  simp [Env.popCaller, Env.callerAt, Nat.add_assoc, Nat.add_comm 1]

/-- The data-ready level after one sample. -/
@[simp] theorem Env.popLevel_levelAt (e : Env) (k : Nat) : e.popLevel.levelAt k = e.levelAt (k + 1) := by
  simp [Env.popLevel, Env.levelAt, Nat.add_assoc, Nat.add_comm 1]

/-- Data-ready samples and exchange samples do not interfere. -/
theorem Env.popLevel_dropAnswers (e : Env) (n : Nat) : e.popLevel.dropAnswers n = (e.dropAnswers n).popLevel := rfl

/-- Samples of the exchange port alone. -/
theorem Env.dropAnswers_eq_used (e : Env) (n : Nat) : e.dropAnswers n = e.used n 0 := rfl

/-- One sample of data-ready alone. -/
theorem Env.popLevel_eq_used (e : Env) : e.popLevel = e.used 0 1 := rfl

/-- No sample at all. -/
@[simp] theorem Env.used_zero (e : Env) : e.used 0 0 = e := rfl

/-- Samples taken one after the other add up. -/
@[simp] theorem Env.used_used (e : Env) (n m k l : Nat) : (e.used n m).used k l = e.used (n + k) (m + l) := by
  simp [Env.used, List.drop_drop, Nat.add_assoc]

/-- The samples of the exchange port after some have been taken. -/
@[simp] theorem Env.used_answerAt (e : Env) (n m k : Nat) : (e.used n m).answerAt k = e.answerAt (n + k) := by
  simp [Env.used, Env.answerAt, List.getElem?_drop, Nat.add_assoc]

/-- The data-ready levels after some have been sampled. -/
@[simp] theorem Env.used_levelAt (e : Env) (n m k : Nat) : (e.used n m).levelAt k = e.levelAt (m + k) := by
  simp [Env.used, Env.levelAt, List.getElem?_drop, Nat.add_assoc]

/-! ### Traces -/

@[simp] theorem Bracket.run_nil (b : Bracket) : b.run [] = some b := rfl
@[simp] theorem Bracket.run_csLow (es : List Event) :
    Bracket.run .outside (.csLow :: es) = Bracket.run .open0 es := rfl
@[simp] theorem Bracket.run_x0 (tx rx : Byte) (es : List Event) :
    Bracket.run .open0 (.x tx rx :: es) = Bracket.run .open1 es := rfl
@[simp] theorem Bracket.run_x1 (tx rx : Byte) (es : List Event) :
    Bracket.run .open1 (.x tx rx :: es) = Bracket.run .open2 es := rfl
@[simp] theorem Bracket.run_csHigh (es : List Event) :
    Bracket.run .open2 (.csHigh :: es) = Bracket.run .outside es := rfl
@[simp] theorem Bracket.run_d (l : Bit) (es : List Event) :
    Bracket.run .outside (.d l :: es) = Bracket.run .outside es := rfl
@[simp] theorem Bracket.run_rsp (st : Status) (dt : RspData) (es : List Event) :
    Bracket.run .outside (.rsp st dt :: es) = Bracket.run .ended es := rfl

/-- A trace in two parts is run part by part. -/
theorem Bracket.run_append (b : Bracket) (l m : List Event) :
    b.run (l ++ m) = (b.run l).bind (fun c => c.run m) := by
  induction l generalizing b with
  | nil => rfl
  | cons e es ih =>
    simp only [List.cons_append, Bracket.run]
    cases b.next e with
    | none => rfl
    | some c => exact ih c

end Sys2Proof.Machine
end

