-- ==== Sys2Proof/Laws/Ops.lean ====
section
/-! SUPPORT. One law per shared operation: everything it can do. The provers cite these instead of unfolding. -/

namespace Sys2Proof.Machine

/-! ### The exchanges of a frame -/

/-- The second exchange, seen complete: the byte goes to `RX` and chip-select is deasserted (R115). -/
theorem State.frameData_done (s : State) (db b : Byte) (h : s.env.answerAt 0 = some b) :
    s.frameData db =
      { regs := { s.regs with fe := .release, rx := b }
        env := s.env.dropAnswers 1
        trace := s.trace ++ [.x db b, .csHigh] } := by
  simp [State.frameData, h, State.setEnv, State.log, State.setRx, State.setFe]

/-- The second exchange, not seen complete: only the sample is used up (R115). -/
theorem State.frameData_waits (s : State) (db : Byte) (h : s.env.answerAt 0 = none) :
    s.frameData db = s.setEnv (s.env.dropAnswers 1) := by
  simp [State.frameData, h]

/-- Both exchanges, seen complete at once (R114, R115). -/
theorem State.frameAddr_done (s : State) (ab db r b : Byte) (h0 : s.env.answerAt 0 = some r)
    (h1 : s.env.answerAt 1 = some b) :
    s.frameAddr ab db =
      { regs := { s.regs with fe := .release, rx := b }
        env := s.env.dropAnswers 2
        trace := s.trace ++ [.x ab r, .x db b, .csHigh] } := by
  simp only [State.frameAddr, h0]
  rw [State.frameData_done (b := b) (h := by simpa using h1)]
  simp

/-- The first exchange, not seen complete: only the sample is used up (R114). -/
theorem State.frameAddr_waits (s : State) (ab db : Byte) (h : s.env.answerAt 0 = none) :
    s.frameAddr ab db = s.setEnv (s.env.dropAnswers 1) := by
  simp [State.frameAddr, h]

/-- The first exchange seen complete and the second not: the frame waits in `F_DATA`. -/
theorem State.frameAddr_waits_data (s : State) (ab db r : Byte) (h0 : s.env.answerAt 0 = some r)
    (h1 : s.env.answerAt 1 = none) :
    s.frameAddr ab db =
      { regs := { s.regs with fe := .data }, env := s.env.dropAnswers 2, trace := s.trace ++ [.x ab r] } := by
  simp only [State.frameAddr, h0]
  rw [State.frameData_waits (h := by simpa using h1)]
  simp [State.setEnv, State.setFe, State.log]

/-- The rest of a frame whose chip-select is asserted, with both exchanges seen complete. -/
theorem State.frameSelected_done (s : State) (ab db r b : Byte) (h0 : s.env.answerAt 0 = some r)
    (h1 : s.env.answerAt 1 = some b) :
    s.frameSelected ab db =
      { regs := { s.regs with fe := .release, rx := b }
        env := s.env.dropAnswers 2
        trace := s.trace ++ [.x ab r, .x db b, .csHigh] } := by
  exact State.frameAddr_done (s.setFe .addr) ab db r b h0 h1

/-- A whole frame with both exchanges seen complete: the four events of R60, and the byte of the second in `RX`. -/
theorem State.frame_done (s : State) (q : SeqState) (ab db r b : Byte) (h0 : s.env.answerAt 0 = some r)
    (h1 : s.env.answerAt 1 = some b) :
    s.frame q ab db =
      { regs := { s.regs with seq := q, fe := .release, rx := b }
        env := s.env.dropAnswers 2
        trace := s.trace ++ frameEvents ab r db b } := by
  have h := State.frameSelected_done (s.start q) ab db r b h0 h1
  simpa [State.frame, frameEvents] using h

/-- Everything the exchanges of a frame can do: they end the frame, or wait in `F_ADDR`, or wait in `F_DATA`. -/
theorem State.frameSelected_cases (s : State) (ab db : Byte) :
    (∃ r b, s.env.answerAt 0 = some r ∧ s.env.answerAt 1 = some b ∧ s.frameSelected ab db =
      { regs := { s.regs with fe := .release, rx := b }, env := s.env.dropAnswers 2
        trace := s.trace ++ [.x ab r, .x db b, .csHigh] }) ∨
    (s.env.answerAt 0 = none ∧ s.frameSelected ab db =
      { regs := { s.regs with fe := .addr }, env := s.env.dropAnswers 1, trace := s.trace }) ∨
    (∃ r, s.env.answerAt 0 = some r ∧ s.env.answerAt 1 = none ∧ s.frameSelected ab db =
      { regs := { s.regs with fe := .data }, env := s.env.dropAnswers 2, trace := s.trace ++ [.x ab r] }) := by
  cases h0 : s.env.answerAt 0 with
  | none =>
    exact .inr (.inl ⟨rfl, State.frameAddr_waits (s.setFe .addr) ab db h0⟩)
  | some r =>
    cases h1 : s.env.answerAt 1 with
    | none =>
      exact .inr (.inr ⟨r, rfl, rfl, State.frameAddr_waits_data (s.setFe .addr) ab db r h0 h1⟩)
    | some b => exact .inl ⟨r, b, rfl, rfl, State.frameSelected_done s ab db r b h0 h1⟩

/-- Everything a frame can do. -/
theorem State.frame_cases (s : State) (q : SeqState) (ab db : Byte) :
    (∃ r b, s.env.answerAt 0 = some r ∧ s.env.answerAt 1 = some b ∧ s.frame q ab db =
      { regs := { s.regs with seq := q, fe := .release, rx := b }, env := s.env.dropAnswers 2
        trace := s.trace ++ frameEvents ab r db b }) ∨
    (s.env.answerAt 0 = none ∧ s.frame q ab db =
      { regs := { s.regs with seq := q, fe := .addr }, env := s.env.dropAnswers 1
        trace := s.trace ++ [.csLow] }) ∨
    (∃ r, s.env.answerAt 0 = some r ∧ s.env.answerAt 1 = none ∧ s.frame q ab db =
      { regs := { s.regs with seq := q, fe := .data }, env := s.env.dropAnswers 2
        trace := s.trace ++ [.csLow, .x ab r] }) := by
  obtain ⟨r, b, h0, h1, h⟩ | ⟨h0, h⟩ | ⟨r, h0, h1, h⟩ := (s.start q).frameSelected_cases ab db
  · exact .inl ⟨r, b, h0, h1, State.frame_done s q ab db r b h0 h1⟩
  · exact .inr (.inl ⟨h0, by simpa [State.frame] using h⟩)
  · exact .inr (.inr ⟨r, h0, h1, by simpa [State.frame] using h⟩)

/-- Everything the second exchange can do. -/
theorem State.frameData_cases (s : State) (db : Byte) :
    (∃ b, s.env.answerAt 0 = some b ∧ s.frameData db =
      { regs := { s.regs with fe := .release, rx := b }, env := s.env.dropAnswers 1
        trace := s.trace ++ [.x db b, .csHigh] }) ∨
    (s.env.answerAt 0 = none ∧ s.frameData db = s.setEnv (s.env.dropAnswers 1)) := by
  cases h : s.env.answerAt 0 with
  | none => exact .inr ⟨rfl, State.frameData_waits s db h⟩
  | some b => exact .inl ⟨b, rfl, State.frameData_done s db b h⟩

/-- Everything the exchanges of a frame in `F_ADDR` can do. -/
theorem State.frameAddr_cases (s : State) (ab db : Byte) :
    (∃ r b, s.env.answerAt 0 = some r ∧ s.env.answerAt 1 = some b ∧ s.frameAddr ab db =
      { regs := { s.regs with fe := .release, rx := b }, env := s.env.dropAnswers 2
        trace := s.trace ++ [.x ab r, .x db b, .csHigh] }) ∨
    (s.env.answerAt 0 = none ∧ s.frameAddr ab db = s.setEnv (s.env.dropAnswers 1)) ∨
    (∃ r, s.env.answerAt 0 = some r ∧ s.env.answerAt 1 = none ∧ s.frameAddr ab db =
      { regs := { s.regs with fe := .data }, env := s.env.dropAnswers 2, trace := s.trace ++ [.x ab r] }) := by
  cases h0 : s.env.answerAt 0 with
  | none => exact .inr (.inl ⟨rfl, State.frameAddr_waits s ab db h0⟩)
  | some r =>
    cases h1 : s.env.answerAt 1 with
    | none => exact .inr (.inr ⟨r, rfl, rfl, State.frameAddr_waits_data s ab db r h0 h1⟩)
    | some b => exact .inl ⟨r, b, rfl, rfl, State.frameAddr_done s ab db r b h0 h1⟩

/-! ### Going on after a frame -/

/-- A frame that has ended is followed by the rest of the operation. -/
theorem State.afterFrame_of_release (s : State) (k : State → State) (h : s.regs.fe = .release) :
    s.afterFrame k = k s := by
  simp [State.afterFrame, h]

/-- A frame that has not ended is followed by nothing in this step. -/
theorem State.afterFrame_of_not_release (s : State) (k : State → State) (h : s.regs.fe ≠ .release) :
    s.afterFrame k = s := by
  unfold State.afterFrame
  split <;> simp_all

/-- A frame with both exchanges seen complete, and the rest of the operation after it. -/
theorem State.frame_done_afterFrame (s : State) (q : SeqState) (ab db r b : Byte) (k : State → State)
    (h0 : s.env.answerAt 0 = some r) (h1 : s.env.answerAt 1 = some b) :
    (s.frame q ab db).afterFrame k =
      k { regs := { s.regs with seq := q, fe := .release, rx := b }
          env := s.env.dropAnswers 2
          trace := s.trace ++ frameEvents ab r db b } := by
  rw [State.frame_done s q ab db r b h0 h1]
  exact State.afterFrame_of_release _ _ rfl

/-- A property every outcome of a frame has and the rest of the operation keeps, the whole has. -/
theorem State.frame_afterFrame_induction {P : State → Prop} (s : State) (q : SeqState) (ab db : Byte) (k : State → State)
    (done : ∀ r b, s.env.answerAt 0 = some r → s.env.answerAt 1 = some b →
      P (k { regs := { s.regs with seq := q, fe := .release, rx := b }, env := s.env.dropAnswers 2
             trace := s.trace ++ frameEvents ab r db b }))
    (waitsAddr : s.env.answerAt 0 = none →
      P { regs := { s.regs with seq := q, fe := .addr }, env := s.env.dropAnswers 1
          trace := s.trace ++ [.csLow] })
    (waitsData : ∀ r, s.env.answerAt 0 = some r → s.env.answerAt 1 = none →
      P { regs := { s.regs with seq := q, fe := .data }, env := s.env.dropAnswers 2
          trace := s.trace ++ [.csLow, .x ab r] }) :
    P ((s.frame q ab db).afterFrame k) := by
  obtain ⟨r, b, h0, h1, h⟩ | ⟨h0, h⟩ | ⟨r, h0, h1, h⟩ := s.frame_cases q ab db
  · rw [h, State.afterFrame_of_release _ _ rfl]
    exact done r b h0 h1
  · rw [h, State.afterFrame_of_not_release _ _ (by simp)]
    exact waitsAddr h0
  · rw [h, State.afterFrame_of_not_release _ _ (by simp)]
    exact waitsData r h0 h1

/-- The same for two states with one environment: whatever the partner does, it does to both. -/
theorem State.frame_afterFrame_induction₂ {R : State → State → Prop} (s u : State) (q : SeqState)
    (ab db : Byte) (k l : State → State) (env : s.env = u.env)
    (done : ∀ r b, s.env.answerAt 0 = some r → s.env.answerAt 1 = some b →
      R (k { regs := { s.regs with seq := q, fe := .release, rx := b }, env := s.env.dropAnswers 2
             trace := s.trace ++ frameEvents ab r db b })
        (l { regs := { u.regs with seq := q, fe := .release, rx := b }, env := u.env.dropAnswers 2
             trace := u.trace ++ frameEvents ab r db b }))
    (waitsAddr : s.env.answerAt 0 = none →
      R { regs := { s.regs with seq := q, fe := .addr }, env := s.env.dropAnswers 1
          trace := s.trace ++ [.csLow] }
        { regs := { u.regs with seq := q, fe := .addr }, env := u.env.dropAnswers 1
          trace := u.trace ++ [.csLow] })
    (waitsData : ∀ r, s.env.answerAt 0 = some r → s.env.answerAt 1 = none →
      R { regs := { s.regs with seq := q, fe := .data }, env := s.env.dropAnswers 2
          trace := s.trace ++ [.csLow, .x ab r] }
        { regs := { u.regs with seq := q, fe := .data }, env := u.env.dropAnswers 2
          trace := u.trace ++ [.csLow, .x ab r] }) :
    R ((s.frame q ab db).afterFrame k) ((u.frame q ab db).afterFrame l) := by
  refine State.frame_afterFrame_induction (P := fun t => R t ((u.frame q ab db).afterFrame l)) s q ab db k ?_ ?_ ?_
  · intro r b h0 h1
    rw [State.frame_done_afterFrame u q ab db r b l (env ▸ h0) (env ▸ h1)]
    exact done r b h0 h1
  · intro h0
    have hu := (u.frame_cases q ab db).resolve_left (by rintro ⟨r, b, h, -⟩; rw [← env, h0] at h; cases h)
    obtain ⟨-, h⟩ | ⟨r, h, -⟩ := hu
    · rw [h, State.afterFrame_of_not_release _ _ (by simp)]
      exact waitsAddr h0
    · rw [← env, h0] at h; cases h
  · intro r h0 h1
    obtain ⟨r', b, -, h, -⟩ | ⟨h, -⟩ | ⟨r', h0', -, h⟩ := u.frame_cases q ab db
    · rw [← env, h1] at h; cases h
    · rw [← env, h0] at h; cases h
    · rw [← env, h0] at h0'; cases h0'
      rw [h, State.afterFrame_of_not_release _ _ (by simp)]
      exact waitsData r h0 h1

/-! ### Accepting a command -/

/-- The idle block accepts (R112). -/
theorem accept_of_idle (op kind : Nibble) (addr : Addr) (wdata : Byte) (run : State → State) (s : State)
    (h : s.Idle) : accept op kind addr wdata run s = .next (run ((s.latch op kind addr wdata).quiet)) := by
  obtain ⟨hq, hf⟩ := h
  simp [accept, hq, hf]

/-- A busy block ignores the command (R153). -/
theorem accept_of_busy (op kind : Nibble) (addr : Addr) (wdata : Byte) (run : State → State) (s : State)
    (h : s.regs.seq ≠ .idle) : accept op kind addr wdata run s = .next s := by
  unfold accept
  split <;> simp_all

/-- Everything acceptance can answer: the operation run from the latched state, the state unchanged, or the fault of an
excluded state. -/
theorem accept_cases (op kind : Nibble) (addr : Addr) (wdata : Byte) (run : State → State) (s : State) :
    (s.Idle ∧ accept op kind addr wdata run s = .next (run ((s.latch op kind addr wdata).quiet))) ∨
    (s.regs.seq = .idle ∧ s.regs.fe ≠ .idle ∧ accept op kind addr wdata run s = .fault .noTransition) ∨
    (s.regs.seq ≠ .idle ∧ accept op kind addr wdata run s = .next s) := by
  by_cases hq : s.regs.seq = .idle
  · by_cases hf : s.regs.fe = .idle
    · exact .inl ⟨⟨hq, hf⟩, accept_of_idle _ _ _ _ _ _ ⟨hq, hf⟩⟩
    · refine .inr (.inl ⟨hq, hf, ?_⟩)
      unfold accept
      split <;> simp_all
  · exact .inr (.inr ⟨hq, accept_of_busy _ _ _ _ _ _ hq⟩)

end Sys2Proof.Machine
end

