-- ==== Sys2Proof/Laws/Exec.lean ====
section
/-! SUPPORT. What each meaning answers, in terms of the shared operations: one law per constructor. -/

namespace Sys2Proof.Machine

/-- RDREG from idle (R70). -/
theorem execRdreg_of_idle (kind : Nibble) (ign : Bit) (addr : Addr) (wdata : Byte) (s : State) (h : s.Idle) :
    exec (.rdreg kind ign addr wdata) s =
      .next (((s.latch 0x1#4 kind addr wdata).quiet.frame .rdreg (addressByte 0#1 addr) 0xFF#8).afterFrame
        finishRdreg) :=
  accept_of_idle Config.opRdreg kind addr wdata
    (fun s => (s.memRead .rdreg addr).afterFrame finishRdreg) s h

/-- WRREG from idle (R71). -/
theorem execWrreg_of_idle (kind : Nibble) (ign : Bit) (addr : Addr) (wdata : Byte) (s : State) (h : s.Idle) :
    exec (.wrreg kind ign addr wdata) s =
      .next (((s.latch 0x2#4 kind addr wdata).quiet.frame .wrreg (addressByte 1#1 addr) wdata).afterFrame
        finishWrreg) :=
  accept_of_idle Config.opWrreg kind addr wdata
    (fun s => (s.memWrite .wrreg addr wdata).afterFrame finishWrreg) s h

/-- INIT from idle: its first frame (R80). -/
theorem execInit_of_idle (kind : Nibble) (ign : Bit) (addr : Addr) (wdata : Byte) (s : State) (h : s.Idle) :
    exec (.init kind ign addr wdata) s =
      .next (((s.latch 0x3#4 kind addr wdata).quiet.frame .initCW 0x80#8 0x80#8).afterFrame afterInitCW) :=
  accept_of_idle Config.opInit kind addr wdata
    (fun s => (s.memWrite .initCW params.addrConfig params.configValue).afterFrame afterInitCW) s h

/-- HASFLT from idle (R85). -/
theorem execHasflt_of_idle (kind : Nibble) (ign : Bit) (addr : Addr) (wdata : Byte) (s : State) (h : s.Idle) :
    exec (.hasflt kind ign addr wdata) s =
      .next (((s.latch 0x4#4 kind addr wdata).quiet.frame .hasflt 0x02#8 0xFF#8).afterFrame finishHasflt) :=
  accept_of_idle Config.opHasflt kind addr wdata
    (fun s => (s.memRead .hasflt params.addrRtdLsb).afterFrame finishHasflt) s h

/-- RDMEAS from idle (R90). -/
theorem execRdmeas_of_idle (kind : Nibble) (ign : Bit) (addr : Addr) (wdata : Byte) (s : State) (h : s.Idle) :
    exec (.rdmeas kind ign addr wdata) s =
      .next (startMeasurement ((s.latch 0x5#4 kind addr wdata).quiet)) := accept_of_idle _ _ _ _ _ _ h

/-- RDRAW from idle (R58, R90). -/
theorem execRdraw_of_idle (ign : Bit) (addr : Addr) (wdata : Byte) (s : State) (h : s.Idle) :
    exec (.rdraw ign addr wdata) s =
      .next (startMeasurement ((s.latch 0x5#4 0x0#4 addr wdata).quiet)) := accept_of_idle _ _ _ _ _ _ h

/-- RDTEMP from idle (R58, R90). -/
theorem execRdtemp_of_idle (ign : Bit) (addr : Addr) (wdata : Byte) (s : State) (h : s.Idle) :
    exec (.rdtemp ign addr wdata) s =
      .next (startMeasurement ((s.latch 0x5#4 0x1#4 addr wdata).quiet)) := accept_of_idle _ _ _ _ _ _ h

/-- RDMEAS and its two pseudo-instructions from idle, by the RDMEAS they expand to (R58, R90). -/
theorem exec_of_expand_rdmeas (i : Instr) (kind : Nibble) (ign : Bit) (addr : Addr) (wdata : Byte) (s : State)
    (h : s.Idle) (hi : i.expand = .rdmeas kind ign addr wdata) :
    exec i s = .next (startMeasurement ((s.latch 0x5#4 kind addr wdata).quiet)) := by
  cases i <;> simp only [Instr.expand, Instr.rdmeas.injEq, reduceCtorEq] at hi <;>
    obtain ⟨rfl, rfl, rfl, rfl⟩ := hi
  · exact execRdmeas_of_idle _ _ _ _ _ h
  · exact execRdraw_of_idle _ _ _ _ h
  · exact execRdtemp_of_idle _ _ _ _ h

/-- A command presented to a busy block changes nothing (R153). -/
theorem exec_command_of_busy (i : Instr) (s : State) (hc : isCommand i = true) (h : s.regs.seq ≠ .idle) :
    exec i s = .next s := by
  cases i <;> first
    | (simp only [exec, execRdreg, execWrreg, execInit, execHasflt, execRdmeas, execRdraw, execRdtemp]
       exact accept_of_busy _ _ _ _ _ _ h)
    | cases hc

/-- The second frame of INIT (R80). -/
theorem afterInitCW_eq (s : State) : afterInitCW s = (s.frame .initCR 0x00#8 0xFF#8).afterFrame afterInitCR := rfl

/-- The test of the read-back (R81) and the third frame of INIT. -/
theorem afterInitCR_eq (s : State) :
    afterInitCR s =
      if s.regs.rx = 0x80#8 then (s.frame .initHM 0x83#8 0xFF#8).afterFrame afterInitHM
      else s.respond .linkFail 0x0000#16 := rfl

/-- The fourth frame of INIT (R80). -/
theorem afterInitHM_eq (s : State) : afterInitHM s = (s.frame .initHL 0x84#8 0xFF#8).afterFrame afterInitHL := rfl

/-- The fifth frame of INIT (R80). -/
theorem afterInitHL_eq (s : State) : afterInitHL s = (s.frame .initLM 0x85#8 0x00#8).afterFrame afterInitLM := rfl

/-- The sixth frame of INIT (R80). -/
theorem afterInitLM_eq (s : State) : afterInitLM s = (s.frame .initLL 0x86#8 0x00#8).afterFrame afterInitLL := rfl

/-- RDMEAS of an unrecognised kind (R91). -/
theorem startMeasurement_of_unrecognised (s : State) (h : kindRecognised s.regs.kind = false) :
    startMeasurement s = s.respond .invalidKind 0x0000#16 := by
  simp [startMeasurement, h, State.raise]

/-- RDMEAS of a recognised kind goes on to the ready check (R91). -/
theorem startMeasurement_of_recognised (s : State) (h : kindRecognised s.regs.kind = true) :
    startMeasurement s = checkReady (s.setPc .measChk .idle) := by
  simp [startMeasurement, h]

/-- The ready check with data not ready (R92). -/
theorem checkReady_of_not_ready (s : State) (h : s.env.levelAt 0 = 1#1) :
    checkReady s = ((s.setEnv s.env.popLevel).log (.d 1#1)).respond .notReady 0x0000#16 := by
  simp [checkReady, h, State.raise]

/-- A level that is not 1 is 0. -/
theorem level_zero_of_ne_one {l : Bit} (h : l ≠ 1#1) : l = 0#1 := by
  revert l; decide

/-- The ready check with data ready: the first frame of RDMEAS (R92, R100). -/
theorem checkReady_of_ready (s : State) (h : s.env.levelAt 0 = 0#1) :
    checkReady s = (((s.setEnv s.env.popLevel).log (.d 0#1)).frame .measLsb 0x02#8 0xFF#8).afterFrame afterMeasLsb := by
  simp [checkReady, h, State.memRead, addressByte, params]

/-- The second frame of RDMEAS (R100). -/
theorem afterMeasLsb_eq (s : State) :
    afterMeasLsb s = ((s.setLsb s.regs.rx).frame .measMsb 0x01#8 0xFF#8).afterFrame afterMeasMsb := rfl

/-- The end of RDMEAS with the fault flag set (R93, R101). -/
theorem afterMeasMsb_of_fault (s : State) (h : faultBit s.regs.lsb = 1#1) :
    afterMeasMsb s =
      { regs := { s.regs with
          seq := .idle, fe := .idle, msb := s.regs.rx, rspValid := true, rspStatus := .fault, rspData := 0x0000#16 }
        env := s.env, trace := s.trace ++ [.rsp .fault 0x0000#16] } := by
  simp [afterMeasMsb, checkFault, h, State.raise, State.respond, State.setPc, State.setMsb]

/-- The end of RDMEAS of kind RawCode with no fault (R94). -/
theorem afterMeasMsb_of_raw (s : State) (h : faultBit s.regs.lsb ≠ 1#1) (k : s.regs.kind = 0x0#4) :
    afterMeasMsb s =
      { regs := { s.regs with
          seq := .idle, fe := .idle, msb := s.regs.rx, rspValid := true, rspStatus := .ok
          rspData := rawData (rawCode s.regs.rx s.regs.lsb) }
        env := s.env, trace := s.trace ++ [.rsp .ok (rawData (rawCode s.regs.rx s.regs.lsb))] } := by
  simp [afterMeasMsb, checkFault, h, k, decodeReturn, State.respond, State.setPc, State.setMsb]

/-- The end of RDMEAS of kind Temperature with no fault (R95). -/
theorem afterMeasMsb_of_temp (s : State) (h : faultBit s.regs.lsb ≠ 1#1) (k : s.regs.kind = 0x1#4) :
    afterMeasMsb s =
      { regs := { s.regs with
          seq := .idle, fe := .idle, msb := s.regs.rx, rspValid := true, rspStatus := .ok
          rspData := temperatureData (rawCode s.regs.rx s.regs.lsb) }
        env := s.env, trace := s.trace ++ [.rsp .ok (temperatureData (rawCode s.regs.rx s.regs.lsb))] } := by
  simp [afterMeasMsb, checkFault, h, k, decodeReturn, State.respond, State.setPc, State.setMsb]

/-- The kinds recognised are the two of R54. -/
theorem kindRecognised_iff (k : Nibble) : kindRecognised k = true ↔ k = 0x0#4 ∨ k = 0x1#4 := by
  revert k; decide

/-- Everything a frame run by itself can answer. -/
theorem runFrame_cases (ab db : Byte) (s : State) :
    (s.regs.seq.runsFrame = true ∧ s.regs.fe = .select ∧
      runFrame ab db s = .next (s.quiet.frameSelected ab db)) ∨
    (s.regs.seq.runsFrame = true ∧ s.regs.fe = .release ∧
      runFrame ab db s = .next (s.quiet.frame s.regs.seq ab db)) ∨
    (∃ f, runFrame ab db s = .fault f) := by
  cases hq : s.regs.seq.runsFrame <;> cases hf : s.regs.fe <;> simp [runFrame, hq, hf]

end Sys2Proof.Machine
end

