-- ==== Sys2Proof/Laws/PerInstr.lean ====
section
/-! SUPPORT. The family of statements made per instruction: the code of an instruction meets the mask and the match of
its own row of spec/opcode_table.json, whatever its operands. -/

namespace Sys2Proof.Laws.EncodedInRow

open Sys2Proof

/-- The code meets the row with this mask and match, and has the row's format. -/
def Meets (c : Code) (mask pattern : Nat) : Prop :=
  match c with
  | .cmd w => w &&& BitVec.ofNat 24 mask = BitVec.ofNat 24 pattern
  | .wire w => w &&& BitVec.ofNat 16 mask = BitVec.ofNat 16 pattern

/-- The code of the instruction meets its row of the opcode table. -/
def Statement : Instr → Prop
  | .rdreg kind ign addr wdata => Meets (encode (.rdreg kind ign addr wdata)) 0xF00000 0x100000
  | .wrreg kind ign addr wdata => Meets (encode (.wrreg kind ign addr wdata)) 0xF00000 0x200000
  | .init kind ign addr wdata => Meets (encode (.init kind ign addr wdata)) 0xF00000 0x300000
  | .hasflt kind ign addr wdata => Meets (encode (.hasflt kind ign addr wdata)) 0xF00000 0x400000
  | .rdmeas kind ign addr wdata => Meets (encode (.rdmeas kind ign addr wdata)) 0xF00000 0x500000
  | .rdraw ign addr wdata => Meets (encode (.rdraw ign addr wdata)) 0xFF0000 0x500000
  | .rdtemp ign addr wdata => Meets (encode (.rdtemp ign addr wdata)) 0xFF0000 0x510000
  | .rdFrame a => Meets (encode (.rdFrame a)) 0x80FF 0x00FF
  | .wrFrame a d => Meets (encode (.wrFrame a d)) 0x8000 0x8000

/-- A packed command word meets the row of its operation code. -/
theorem meets_op (op kind : Nibble) (ign : Bit) (addr : Addr) (wdata : Byte) :
    packCmd op kind ign addr wdata &&& 0xF00000#24 = op ++ 0x00000#20 := by
  rw [cmd_and_op_mask, (packCmd_fields op kind ign addr wdata).1]

/-- A packed command word meets the row of its operation code and kind. -/
theorem meets_op_kind (op kind : Nibble) (ign : Bit) (addr : Addr) (wdata : Byte) :
    packCmd op kind ign addr wdata &&& 0xFF0000#24 = op ++ kind ++ 0x0000#16 := by
  rw [cmd_and_op_kind_mask, (packCmd_fields op kind ign addr wdata).1, (packCmd_fields op kind ign addr wdata).2.1]

theorem rdreg (kind : Nibble) (ign : Bit) (addr : Addr) (wdata : Byte) :
    Statement (.rdreg kind ign addr wdata) := meets_op _ _ _ _ _

theorem wrreg (kind : Nibble) (ign : Bit) (addr : Addr) (wdata : Byte) :
    Statement (.wrreg kind ign addr wdata) := meets_op _ _ _ _ _

theorem init (kind : Nibble) (ign : Bit) (addr : Addr) (wdata : Byte) :
    Statement (.init kind ign addr wdata) := meets_op _ _ _ _ _

theorem hasflt (kind : Nibble) (ign : Bit) (addr : Addr) (wdata : Byte) :
    Statement (.hasflt kind ign addr wdata) := meets_op _ _ _ _ _

theorem rdmeas (kind : Nibble) (ign : Bit) (addr : Addr) (wdata : Byte) :
    Statement (.rdmeas kind ign addr wdata) := meets_op _ _ _ _ _

theorem rdraw (ign : Bit) (addr : Addr) (wdata : Byte) :
    Statement (.rdraw ign addr wdata) := meets_op_kind _ _ _ _ _

theorem rdtemp (ign : Bit) (addr : Addr) (wdata : Byte) :
    Statement (.rdtemp ign addr wdata) := meets_op_kind _ _ _ _ _

theorem rdFrame (a : Addr) : Statement (.rdFrame a) := by
  show packWire 0#1 a params.dummyByte &&& 0x80FF#16 = 0x00FF#16
  rw [wire_and_read_mask, (packWire_fields 0#1 a params.dummyByte).1, (packWire_fields 0#1 a params.dummyByte).2.2]
  rfl

theorem wrFrame (a : Addr) (d : Byte) : Statement (.wrFrame a d) := by
  show packWire 1#1 a d &&& 0x8000#16 = 0x8000#16
  rw [wire_and_write_mask, (packWire_fields 1#1 a d).1]
  rfl

end Sys2Proof.Laws.EncodedInRow
end

