-- ==== Sys2Proof/Laws/Step.lean ====
section
/-! SUPPORT. What the step does, in terms of the parts of Machine/Control.lean: the frame an operation is about to run,
and each way an operation in progress goes on. -/

namespace Sys2Proof.Machine

/-- The step with the reset line high (R140) or low. -/
theorem step_eq (s : State) :
    step s =
      if (s.env.callerAt 0).rst then .next (s.setEnv s.env.popCaller).resetBlock
      else runBlock (s.env.callerAt 0).cmd (s.setEnv s.env.popCaller) := rfl

/-- The idle block takes the command presented, or does nothing but clear `rsp_valid` (R112, R120). -/
theorem runBlock_of_idle (cmd : Option CmdWord) (s : State) (h : s.Idle) :
    runBlock cmd s =
      match cmd with
      | some w => runCommand w s
      | none => .next s.quiet := by
  cases cmd <;> simp [runBlock, h.1, h.2]

/-- A busy block goes on with its operation whatever the command port shows (R153). -/
theorem runBlock_of_busy (cmd : Option CmdWord) (s : State) (h : s.regs.seq ≠ .idle) :
    runBlock cmd s = goOn s := by
  unfold runBlock
  split
  · contradiction
  · rfl

/-- With no reset the step of an operation in progress is that operation going on (R113 to R119). -/
theorem step_of_busy (s : State) (hr : (s.env.callerAt 0).rst = false) (h : s.regs.seq ≠ .idle) :
    step s = goOn (s.setEnv s.env.popCaller) := by
  rw [step_eq, hr, if_neg (by simp)]
  exact runBlock_of_busy _ (s.setEnv s.env.popCaller) h

/-- With no reset the step of the idle block depends on the command presented (R112). -/
theorem step_of_idle (s : State) (hr : (s.env.callerAt 0).rst = false) (h : s.Idle) :
    step s =
      match (s.env.callerAt 0).cmd with
      | some w => runCommand w (s.setEnv s.env.popCaller)
      | none => .next (s.setEnv s.env.popCaller).quiet := by
  rw [step_eq, hr, if_neg (by simp)]
  exact runBlock_of_idle _ (s.setEnv s.env.popCaller) h

/-- Two bytes, the first an address byte, name the frame of that direction (R50). -/
theorem decode_wire_append (dir : Bit) (a : Addr) (d : Byte) :
    decode (.wire (addressByte dir a ++ d)) =
      if dir = 1#1 then .ok (.wrFrame a d)
      else if d = 0xFF#8 then .ok (.rdFrame a) else .error (.noSuchFrame d) := by
  obtain ⟨h1, h2, h3⟩ := packWire_fields dir a d
  change decodeFrame (packWire dir a d) = _
  simp [decodeFrame, h1, h2, h3, params]

/-- With chip-select just asserted for a frame, the instruction run is that frame (R111): running it word by word is
running its two exchanges. -/
theorem runFrameWord_eq (s : State) (hq : s.regs.seq.runsFrame = true) (hf : s.regs.fe = .select) :
    runFrameWord s =
      .next ((s.quiet.frameSelected s.regs.abyte s.regs.dbyte).afterFrame afterRelease) := by
  have key : ∀ dir a d, s.regs.abyte = addressByte dir a → s.regs.dbyte = d →
      (dir = 1#1 ∨ (dir = 0#1 ∧ d = 0xFF#8)) →
      runFrameWord s = .next ((s.quiet.frameSelected s.regs.abyte s.regs.dbyte).afterFrame afterRelease) := by
    intro dir a d ha hd h
    unfold runFrameWord Regs.wireWord
    rw [ha, hd, decode_wire_append]
    obtain rfl | ⟨rfl, rfl⟩ := h
    · simp [exec, execWrFrame, runFrame, hq, hf]
    · simp [exec, execRdFrame, runFrame, hq, hf, params]
  cases h : s.regs.seq <;> simp [h, SeqState.runsFrame] at hq
  case rdreg => exact key 0 s.regs.addr _ (by simp [Regs.abyte, h]) rfl (.inr ⟨rfl, by simp [Regs.dbyte, h, params]⟩)
  case wrreg => exact key 1 s.regs.addr _ (by simp [Regs.abyte, h]) rfl (.inl rfl)
  case initCW => exact key 1 0x00 _ (by simp only [Regs.abyte, h]; decide) rfl (.inl rfl)
  case initCR => exact key 0 0x00 _ (by simp only [Regs.abyte, h]; decide) rfl (.inr ⟨rfl, by simp [Regs.dbyte, h, params]⟩)
  case initHM => exact key 1 0x03 _ (by simp only [Regs.abyte, h]; decide) rfl (.inl rfl)
  case initHL => exact key 1 0x04 _ (by simp only [Regs.abyte, h]; decide) rfl (.inl rfl)
  case initLM => exact key 1 0x05 _ (by simp only [Regs.abyte, h]; decide) rfl (.inl rfl)
  case initLL => exact key 1 0x06 _ (by simp only [Regs.abyte, h]; decide) rfl (.inl rfl)
  case hasflt => exact key 0 0x02 _ (by simp only [Regs.abyte, h]; decide) rfl (.inr ⟨rfl, by simp [Regs.dbyte, h, params]⟩)
  case measLsb => exact key 0 0x02 _ (by simp only [Regs.abyte, h]; decide) rfl (.inr ⟨rfl, by simp [Regs.dbyte, h, params]⟩)
  case measMsb => exact key 0 0x01 _ (by simp only [Regs.abyte, h]; decide) rfl (.inr ⟨rfl, by simp [Regs.dbyte, h, params]⟩)

/-- An operation in progress in a state R16 allows goes on phase by phase. -/
theorem goOn_of_legal (s : State) (h : pcLegal s.regs.seq s.regs.fe = true) :
    goOn s =
      match s.regs.fe with
      | .select => .next ((s.quiet.frameSelected s.regs.abyte s.regs.dbyte).afterFrame afterRelease)
      | .addr => .next ((s.quiet.frameAddr s.regs.abyte s.regs.dbyte).afterFrame afterRelease)
      | .data => .next ((s.quiet.frameData s.regs.dbyte).afterFrame afterRelease)
      | .release => .next (afterRelease s.quiet)
      | .idle => runMeasureState s.quiet := by
  unfold goOn
  rw [if_pos h]
  cases hf : s.regs.fe with
  | select => exact runFrameWord_eq s (by simpa [hf, pcLegal] using h) hf
  | idle => rfl
  | addr => rfl
  | data => rfl
  | release => rfl

/-- In a state R16 excludes there is no step (R121). -/
theorem goOn_of_not_legal (s : State) (h : pcLegal s.regs.seq s.regs.fe = false) : goOn s = .fault .noTransition := by
  simp [goOn, h]

/-- The states of RDMEAS that run no frame, each by its check (R117 to R119). -/
theorem runMeasureState_measChk (s : State) (h : s.regs.seq = .measChk) : runMeasureState s = .next (checkReady s) := by
  simp [runMeasureState, h]

theorem runMeasureState_measFlt (s : State) (h : s.regs.seq = .measFlt) : runMeasureState s = .next (checkFault s) := by
  simp [runMeasureState, h]

theorem runMeasureState_measDec (s : State) (h : s.regs.seq = .measDec) (hk : kindRecognised s.regs.kind = true) :
    runMeasureState s = .next (decodeReturn s) := by
  simp only [runMeasureState, h, hk, if_true]

/-- An operation that waits in `F_DATA`, its exchange seen complete in this step: chip-select is deasserted and the
operation goes on after the frame (R115, R116). -/
theorem step_of_data_done (s : State) (b : Byte) (hr : (s.env.callerAt 0).rst = false)
    (hq : s.regs.seq.runsFrame = true) (hf : s.regs.fe = .data) (ha : s.env.answerAt 0 = some b) :
    step s = .next (afterRelease
      { regs := { s.regs with fe := .release, rx := b, rspValid := false }
        env := s.env.popCaller.dropAnswers 1
        trace := s.trace ++ [.x s.regs.dbyte b, .csHigh] }) := by
  have hb : s.regs.seq ≠ .idle := by intro h; rw [h] at hq; cases hq
  rw [step_of_busy s hr hb, goOn_of_legal _ (by simp [pcLegal, hf, hq])]
  simp only [State.setEnv_regs, hf]
  rw [State.frameData_done (b := b) (h := by simpa using ha), State.afterFrame_of_release _ _ rfl]
  rfl

/-- The command word runs the instruction it names, or is answered `BAD_OP` (R56). -/
theorem runCommand_cases (w : CmdWord) (s : State) :
    (∃ i, decode (.cmd w) = .ok i ∧ isCommand i = true ∧ runCommand w s = exec i s) ∨
    (∃ e, decode (.cmd w) = .error e ∧ runCommand w s = badOp w s) := by
  cases h : decode (.cmd w) with
  | error e => exact .inr ⟨e, rfl, by simp [runCommand, h]⟩
  | ok i =>
    refine .inl ⟨i, rfl, ?_, by simp [runCommand, h]⟩
    simp only [decode, decodeCmd] at h
    repeat' split at h
    all_goals first | cases h; rfl | cases h

end Sys2Proof.Machine
end

