-- ==== Sys2Proof/Tests/Slice0.lean ====
section
/-! SUPPORT. Tests: the checks on syntax refuse ill-formed terms, words written out from the spec decode to what they
stand for, single steps give the events and answers of spec/95_test_vectors.md, and every statement of
Certificates/Slice0/Obligations.lean that has hypotheses has a witness that meets them. Expected values are the
spec's, cited at each test. -/

namespace Sys2Proof.Tests

open Sys2Proof Sys2Proof.Machine

/-! ### Helpers -/

/-- The reset state with the exchange port and data-ready scripted. -/
def scripted (answers : List (Option Byte)) (levels : List Bit) : State :=
  { State.reset with env := { State.reset.env with answers := answers, levels := levels } }

/-- The reset state with the exchange port answering the bytes given. -/
def answering (bs : List Byte) (levels : List Bit) : State := scripted (bs.map some) levels

/-- The reset state with the caller scripted. -/
def calling (caller : List CallerInput) : State :=
  { State.reset with env := { State.reset.env with caller := caller } }

/-- The registers after reset in another place of the sequencer. -/
def regsAt (seq : SeqState) (fe : FramePhase) : Regs := { Regs.reset with seq := seq, fe := fe }

/-- A state in the middle of an operation. -/
def stateAt (seq : SeqState) (fe : FramePhase) (answers : List (Option Byte)) : State :=
  { scripted answers [] with
    regs := regsAt seq fe
    env := { State.reset.env with caller := [{ rst := false, cmd := none }, { rst := false, cmd := none }]
                                  answers := answers } }

/-- The trace of a next state; nothing of any other outcome. -/
def traceOf : Host.Outcome State Fault Refusal → List Event
  | .next s => s.trace
  | .fault _ => []
  | .refused _ => []

/-- The registers of a next state. -/
def regsOf : Host.Outcome State Fault Refusal → Option Regs
  | .next s => some s.regs
  | .fault _ => none
  | .refused _ => none

/-- One step of the command `w` placed for the next step. -/
def runWord (w : Nat) (s : State) : Host.Outcome State Fault Refusal := step (s.withFetchWord 24 w)

/-- Inputs of one edge. -/
def quietInputs : Inputs :=
  { rst := false, cmdValid := false, cmd := 0, xferDone := false, xferRx := 0, drdyN := 1 }

/-- A script of bytes completes the exchanges with those bytes. -/
theorem answering_answers (bs : List Byte) (levels : List Bit) : (answering bs levels).Answers bs := by
  intro k b h
  simp [answering, scripted, Env.answerAt, h]

/-- The same for any state with that script. -/
theorem answers_of_script (s : State) (bs : List Byte) (h : s.env.answers = bs.map some) : s.Answers bs := by
  intro k b hk
  simp [Env.answerAt, h, hk]

/-! ### WellFormed smoke: an ill-formed term for each check -/

theorem test_wf_refuses_rdmeas_raw : (Instr.rdmeas 0 0 0 0).wf = false := by decide
theorem test_wf_refuses_rdmeas_temp : (Instr.rdmeas 1 0 0 0).wf = false := by decide
theorem test_wf_accepts_rdmeas_other : (Instr.rdmeas 2 1 0x7F 0xFF).wf = true := by decide
theorem test_canonical_refuses_kind :
    (Instr.rdreg 1 0 0x07 0).canonical = false ∧ (Instr.wrreg 1 0 0x03 0xFF).canonical = false ∧
    (Instr.init 1 0 0 0).canonical = false ∧ (Instr.hasflt 1 0 0 0).canonical = false := by decide
theorem test_canonical_refuses_bit15 :
    (Instr.rdreg 0 1 0x07 0).canonical = false ∧ (Instr.wrreg 0 1 0x03 0xFF).canonical = false ∧
    (Instr.init 0 1 0 0).canonical = false ∧ (Instr.hasflt 0 1 0 0).canonical = false ∧
    (Instr.rdmeas 2 1 0 0).canonical = false ∧ (Instr.rdraw 1 0 0).canonical = false ∧
    (Instr.rdtemp 1 0 0).canonical = false := by decide
theorem test_canonical_refuses_addr :
    (Instr.init 0 0 1 0).canonical = false ∧ (Instr.hasflt 0 0 1 0).canonical = false ∧
    (Instr.rdmeas 2 0 1 0).canonical = false ∧ (Instr.rdraw 0 1 0).canonical = false ∧
    (Instr.rdtemp 0 1 0).canonical = false := by decide
theorem test_canonical_refuses_wdata :
    (Instr.rdreg 0 0 0x07 1).canonical = false ∧ (Instr.init 0 0 0 1).canonical = false ∧
    (Instr.hasflt 0 0 0 1).canonical = false ∧ (Instr.rdmeas 2 0 0 1).canonical = false ∧
    (Instr.rdraw 0 0 1).canonical = false ∧ (Instr.rdtemp 0 0 1).canonical = false := by decide
theorem test_canonical_accepts :
    (Instr.rdreg 0 0 0x07 0).canonical = true ∧ (Instr.wrreg 0 0 0x03 0xFF).canonical = true ∧
    (Instr.init 0 0 0 0).canonical = true ∧ (Instr.rdtemp 0 0 0).canonical = true := by decide

/-! ### Decoding: words written out bit by bit from the encodings of R50, R52 and R53 -/

/-- Bus family: `0001 kkkk i aaaaaaa vvvvvvvv` and `0010 kkkk i aaaaaaa vvvvvvvv`. -/
theorem test_decode_bus :
    decode (.cmd 0b000111110000001010101011#24) = .ok (.rdreg 0xF 0 0x02 0xAB) ∧
    decode (.cmd 0b001000001000010001010101#24) = .ok (.wrreg 0 1 0x04 0x55) := by decide
/-- System family: `0011`. -/
theorem test_decode_init : decode (.cmd 0b001111111111111111111111#24) = .ok (.init 0xF 1 0x7F 0xFF) := by decide
/-- Fault check: `0100`. -/
theorem test_decode_hasflt : decode (.cmd 0b010000000000000000000000#24) = .ok (.hasflt 0 0 0 0) := by decide
/-- Measurement: `0101`, kinds 2, 0 and 1. -/
theorem test_decode_measure :
    decode (.cmd 0b010100100000000000000000#24) = .ok (.rdmeas 2 0 0 0) ∧
    decode (.cmd 0b010100000000000000000000#24) = .ok (.rdraw 0 0 0) ∧
    decode (.cmd 0b010100010000000011111111#24) = .ok (.rdtemp 0 0 0xFF) := by decide
/-- Frames: `0 aaaaaaa 11111111` and `1 aaaaaaa vvvvvvvv`. -/
theorem test_decode_frames :
    decode (.wire 0b0000000111111111#16) = .ok (.rdFrame 0x01) ∧
    decode (.wire 0b1000011000000000#16) = .ok (.wrFrame 0x06 0x00) := by decide
/-- Rejected by name: reserved operation codes 0, 6 and 15 (R56), and a read frame without the dummy byte (R50). -/
theorem test_decode_rejects :
    decode (.cmd 0x0F0000#24) = .error (.reservedOp 0x0) ∧ decode (.cmd 0x600000#24) = .error (.reservedOp 0x6) ∧
    decode (.cmd 0xFFFFFF#24) = .error (.reservedOp 0xF) ∧ decode (.wire 0x02FE#16) = .error (.noSuchFrame 0xFE) := by
  decide
/-- The opcode table's numbering: 24 bits are a command, 16 bits a frame, no other width is a row. -/
theorem test_decodeTableWord :
    decodeTableWord 24 0x100700 = some (.rdreg 0 0 0x07 0) ∧ decodeTableWord 16 0x80FF = some (.wrFrame 0x00 0xFF) ∧
    decodeTableWord 32 0x100700 = none ∧ decodeTableWord 24 0x1000000 = none := by decide

/-! ### Single steps against spec/95_test_vectors.md -/

/-- 3.1: `0x1F02AB`, ignored fields set, second exchange `0x00`. -/
theorem test_rdreg_ignored_fields :
    traceOf (runWord 0x1F02AB (answering [0x77, 0x00] [])) =
      [.csLow, .x 0x02 0x77, .x 0xFF 0x00, .csHigh, .rsp .ok 0x0000] := by decide
/-- 3.1: `0x100100`, the bus never completes the second exchange: the frame stays open, no response. -/
theorem test_rdreg_hangs :
    traceOf (runWord 0x100100 (scripted [some 0x00, none] [])) = [.csLow, .x 0x01 0x00] ∧
    (regsOf (runWord 0x100100 (scripted [some 0x00, none] []))).map (fun r => (r.seq, r.fe, r.csN, r.rspValid)) =
      some (.rdreg, .data, false, false) := by decide
/-- 3.1: `0x208455`, full address byte in bits 15 to 8. -/
theorem test_wrreg_full_address :
    traceOf (runWord 0x208455 (answering [0x00, 0x00] [])) =
      [.csLow, .x 0x84 0x00, .x 0x55 0x00, .csHigh, .rsp .ok 0x0000] := by decide
/-- 3.1: `0x2003FF`, data `0xFF` is data. -/
theorem test_wrreg_data_ff :
    traceOf (runWord 0x2003FF (answering [0x12, 0x34] [])) =
      [.csLow, .x 0x83 0x12, .x 0xFF 0x34, .csHigh, .rsp .ok 0x0000] := by decide
/-- P1: INIT with the read-back `0x80`. -/
theorem test_init_verified :
    traceOf (runWord 0x300000 (answering [0, 0, 0, 0x80, 0, 0, 0, 0, 0, 0, 0, 0] [])) =
      [.csLow, .x 0x80 0, .x 0x80 0, .csHigh, .csLow, .x 0x00 0, .x 0xFF 0x80, .csHigh,
       .csLow, .x 0x83 0, .x 0xFF 0, .csHigh, .csLow, .x 0x84 0, .x 0xFF 0, .csHigh,
       .csLow, .x 0x85 0, .x 0x00 0, .csHigh, .csLow, .x 0x86 0, .x 0x00 0, .csHigh, .rsp .ok 0x0001] := by decide
/-- 3.2: `0x80` in the first exchange of frame 2, `0x00` in the second. -/
theorem test_init_second_exchange_counts :
    traceOf (runWord 0x300000 (answering [0, 0, 0x80, 0x00] [])) =
      [.csLow, .x 0x80 0, .x 0x80 0, .csHigh, .csLow, .x 0x00 0x80, .x 0xFF 0x00, .csHigh, .rsp .linkFail 0] := by
  decide
/-- 3.3: LSB byte `0xFE`, code bits ignored. -/
theorem test_hasflt_code_bits :
    traceOf (runWord 0x400000 (answering [0, 0xFE] [1])) =
      [.csLow, .x 0x02 0, .x 0xFF 0xFE, .csHigh, .rsp .ok 0x0000] := by decide
/-- 3.3 and P5: LSB byte `0x55`. -/
theorem test_hasflt_fault :
    traceOf (runWord 0x400000 (answering [0, 0x55] [1])) =
      [.csLow, .x 0x02 0, .x 0xFF 0x55, .csHigh, .rsp .ok 0x0001] := by decide
/-- 3.4: `0x520000` with data not ready, invalid kind beats not ready. -/
theorem test_rdmeas_invalid_kind_not_ready :
    traceOf (runWord 0x520000 (answering [] [1])) = [.rsp .invalidKind 0] := by decide
/-- 3.4: `0x5F0000` with data ready, no sample and no frame. -/
theorem test_rdmeas_kind_15 :
    traceOf (runWord 0x5F0000 (answering [0, 0, 0, 0] [0])) = [.rsp .invalidKind 0] := by decide
/-- P3: not ready. -/
theorem test_rdraw_not_ready : traceOf (runWord 0x500000 (answering [] [1])) = [.d 1, .rsp .notReady 0] := by decide
/-- P3: LSB byte `0xAA`, MSB byte `0x55`, raw code 10965. -/
theorem test_rdraw_value :
    traceOf (runWord 0x500000 (answering [0, 0xAA, 0, 0x55] [0])) =
      [.d 0, .csLow, .x 0x02 0, .x 0xFF 0xAA, .csHigh, .csLow, .x 0x01 0, .x 0xFF 0x55, .csHigh,
       .rsp .ok 0x2AD5] := by decide
/-- 2.1: LSB byte `0x10`, MSB byte `0x27`, a negative value. -/
theorem test_rdtemp_negative :
    traceOf (runWord 0x51FFFF (answering [0, 0x10, 0, 0x27] [0])) =
      [.d 0, .csLow, .x 0x02 0, .x 0xFF 0x10, .csHigh, .csLow, .x 0x01 0, .x 0xFF 0x27, .csHigh,
       .rsp .ok 0xFC1A] := by decide
/-- P5: LSB byte `0x55`, MSB byte `0xAA`: both frames, then `FAULT`. -/
theorem test_rdtemp_fault :
    traceOf (runWord 0x510000 (answering [0, 0x55, 0, 0xAA] [0])) =
      [.d 0, .csLow, .x 0x02 0, .x 0xFF 0x55, .csHigh, .csLow, .x 0x01 0, .x 0xFF 0xAA, .csHigh,
       .rsp .fault 0] := by decide
/-- The read frame to `0x01` by itself (R62). -/
theorem test_rdFrame :
    traceOf (exec (.rdFrame 0x01) (stateAt .measMsb .select [some 0x00, some 0x40])) =
      [.x 0x01 0x00, .x 0xFF 0x40, .csHigh] := by decide
/-- A frame placed for the next step runs as the first instruction after reset (R50). -/
theorem test_wrFrame_placed :
    traceOf (step ((answering [0, 0] []).withFetchWord 16 0x8312)) =
      [.csLow, .x 0x83 0, .x 0x12 0, .csHigh, .rsp .ok 0x0000] := by decide
/-- P6 and 3.4: reserved codes, the kind is not looked at. -/
theorem test_bad_op :
    traceOf (runWord 0x0F0000 State.reset) = [.rsp .badOp 0] ∧
    traceOf (runWord 0x700000 State.reset) = [.rsp .badOp 0] := by decide
/-- P1: the registers at the end of `RDMEAS TEMP`. -/
theorem test_end_state_p1 :
    regsOf (runWord 0x510000 (answering [0, 0x00, 0, 0x40] [0])) =
      some { Regs.reset with op := 0x5, kind := 0x1, rx := 0x40, msb := 0x40, rspValid := true } := by decide
/-- An operation that waited goes on when the exchange completes: the step after the one of `test_rdreg_hangs`. -/
theorem test_goes_on :
    traceOf (step { stateAt .rdreg .data [some 0x3C] with trace := [.csLow, .x 0x07 0x00] }) =
      [.csLow, .x 0x07 0x00, .x 0xFF 0x3C, .csHigh, .rsp .ok 0x003C] := by decide

/-- R80, R116: INIT that waited in the third frame, with the bytes left answered, sends the fourth, fifth and sixth. -/
theorem test_init_goes_on :
    traceOf (step (stateAt .initHM .data ([0, 0, 0, 0, 0, 0, 0].map some))) =
      [.x 0xFF 0, .csHigh, .csLow, .x 0x84 0, .x 0xFF 0, .csHigh, .csLow, .x 0x85 0, .x 0x00 0, .csHigh,
       .csLow, .x 0x86 0, .x 0x00 0, .csHigh, .rsp .ok 0x0001] := by decide

/-! ### The cycle level against spec/95_test_vectors.md 3.5 -/

/-- The inputs of the table of 3.5, from the edge that ends cycle 0 to the edge that ends cycle 5. -/
def cycleInputs : List Inputs :=
  [{ quietInputs with cmdValid := true, cmd := 0x100700 }, quietInputs, quietInputs,
   { quietInputs with xferDone := true, xferRx := 0x00 }, { quietInputs with xferDone := true, xferRx := 0x3C },
   quietInputs]

/-- Events of 3.5, and cycle 6: the response is signalled and the block is ready. -/
theorem test_cycles_rdreg :
    (edges cycleInputs Regs.reset).map (fun p => (p.2, p.1.rspValid, p.1.rspData, p.1.cmdReady)) =
      some ([.csLow, .x 0x07 0x00, .x 0xFF 0x3C, .csHigh, .rsp .ok 0x003C], true, 0x003C, true) := by decide
/-- Cycle 3 of 3.5: the address byte is still being exchanged. -/
theorem test_cycle_3_outputs :
    (edges (cycleInputs.take 3) Regs.reset).map (fun p => (p.1.cmdReady, p.1.csN, p.1.xferReq, p.1.xferTx)) =
      some (false, false, true, 0x07) := by decide
/-- The reset vector of 3.5: reset at the edge that ends cycle 3. -/
theorem test_cycle_reset :
    (edges (cycleInputs.take 3 ++ [{ quietInputs with rst := true, xferDone := true }]) Regs.reset).map
      (fun p => (p.1, p.2)) = some (Regs.reset, [.csLow]) := by decide

/-! ### The assembler, R58 -/

theorem test_assemble :
    assemble (.wrreg 0x83 0x12) = some 0x200312 ∧ assemble (.rdreg IcReg.faultStatus.asmNumber) = some 0x100700 ∧
    assemble (.rdmeas 15) = some 0x5F0000 ∧ assemble .rdtemp = some 0x510000 ∧
    assemble (.rdreg 256) = none ∧ assemble (.wrreg 0 256) = none ∧ assemble (.rdmeas 16) = none := by decide

/-! ### Witnesses: states and operands that meet the hypotheses of the statements -/

/-- DecodeEncode and EncodeDecode: a well-formed instruction of each constructor, at the ends of its fields. -/
theorem witness_DecodeEncode :
    (Instr.rdreg 0xF 1 0x7F 0xFF).wf = true ∧ (Instr.rdmeas 2 0 0 0).wf = true ∧ (Instr.rdmeas 0xF 1 0x7F 0xFF).wf = true ∧
    (Instr.rdFrame 0x7F).wf = true ∧ (Instr.wrFrame 0x00 0xFF).wf = true := by decide
theorem witness_EncodeDecode :
    decode (.cmd 0x5F0000#24) = .ok (.rdmeas 0xF 0 0 0) ∧ decode (.wire 0xFFFF#16) = .ok (.wrFrame 0x7F 0xFF) := by
  decide
/-- RegisterTable: a register with a write address and one without. -/
theorem witness_RegisterTable : IcReg.lftLsb.writeByte = some 0x86#8 ∧ IcReg.rtdLsb.writeByte = none := by decide
/-- AssemblerWords: the last operand in range and the first out of it. -/
theorem witness_AssemblerWords :
    (255 < 256 ∧ 256 ≤ 256 ∧ 15 < 16 ∧ 16 ≤ 16) ∧
    assemble (.rdreg 255) = some 0x107F00 ∧ decode (.cmd 0x107F00#24) = .ok (.rdreg 0 0 0x7F 0) := by decide
/-- SentFramesHaveAShape: a state that sends a read frame and one that sends a write frame. -/
theorem witness_SentFramesHaveAShape :
    (regsAt .measMsb .select).seq.runsFrame = true ∧ (regsAt .initHM .select).seq.runsFrame = true := by decide
/-- ReadFrameResult and WriteFrameResult, first clause. -/
theorem witness_FrameResult_select :
    (stateAt .rdreg .select [some 1, some 2]).regs.seq.runsFrame = true ∧
    (stateAt .rdreg .select [some 1, some 2]).regs.fe = .select ∧
    (stateAt .rdreg .select [some 1, some 2]).Answers [1, 2] :=
  ⟨by decide, by decide, answers_of_script _ _ rfl⟩
/-- ReadFrameResult and WriteFrameResult, second clause. -/
theorem witness_FrameResult_release :
    (stateAt .initLM .release [some 1, some 2]).regs.seq.runsFrame = true ∧
    (stateAt .initLM .release [some 1, some 2]).regs.fe = .release ∧
    (stateAt .initLM .release [some 1, some 2]).Answers [1, 2] :=
  ⟨by decide, by decide, answers_of_script _ _ rfl⟩
/-- FramesStopElsewhere, both clauses. -/
theorem witness_FramesStopElsewhere :
    ((regsAt .wrreg .data).seq.runsFrame = true ∧ (regsAt .wrreg .data).fe = .data) ∧
    ((regsAt .wrreg .addr).seq.runsFrame = true ∧ (regsAt .wrreg .addr).fe = .addr) ∧
    (regsAt .measFlt .idle).seq.runsFrame = false ∧ (regsAt .rdreg .idle).fe = .idle := by decide
/-- RdregResult, WrregResult, HasfltResult, FramePrimitive. -/
theorem witness_two_answers : (answering [0x12, 0xFF] []).Idle ∧ (answering [0x12, 0xFF] []).Answers [0x12, 0xFF] :=
  ⟨by decide, answering_answers _ _⟩
/-- InitResult, first clause. -/
theorem witness_InitResult_verified :
    (answering [1, 2, 3, 0x80, 5, 6, 7, 8, 9, 10, 11, 12] []).Idle ∧
    (answering [1, 2, 3, 0x80, 5, 6, 7, 8, 9, 10, 11, 12] []).Answers [1, 2, 3, 0x80, 5, 6, 7, 8, 9, 10, 11, 12] :=
  ⟨by decide, answering_answers _ _⟩
/-- InitResult, second clause, with a read-back one bit from `0x80`. -/
theorem witness_InitResult_failed :
    (answering [1, 2, 0x80, 0x81] []).Idle ∧ (answering [1, 2, 0x80, 0x81] []).Answers [1, 2, 0x80, 0x81] ∧
    (0x81#8) ≠ 0x80#8 :=
  ⟨by decide, answering_answers _ _, by decide⟩
/-- RdmeasResult, the hypotheses of all clauses and the first two: kinds 2 and 15 unrecognised; not ready. -/
theorem witness_RdmeasResult_early :
    State.reset.Idle ∧ (Instr.rdmeas 2 1 0x7F 0xFF).expand = .rdmeas 2 1 0x7F 0xFF ∧ (0x2#4 ≠ 0x0#4 ∧ 0x2#4 ≠ 0x1#4) ∧
    (0xF#4 ≠ 0x0#4 ∧ 0xF#4 ≠ 0x1#4) ∧ (answering [] [1]).Idle ∧ (answering [] [1]).env.levelAt 0 = 1#1 ∧
    (Instr.rdraw 1 0x7F 0xFF).expand = .rdmeas 0 1 0x7F 0xFF ∧ (Instr.rdtemp 0 0 0).expand = .rdmeas 1 0 0 0 := by
  decide
/-- RdmeasResult, third clause, with the fault flag clear and with it set. -/
theorem witness_RdmeasResult_ready :
    (answering [0, 0xFE, 0, 0xFF] [0]).Idle ∧ (answering [0, 0xFE, 0, 0xFF] [0]).env.levelAt 0 = 0#1 ∧
    (answering [0, 0xFE, 0, 0xFF] [0]).Answers [0, 0xFE, 0, 0xFF] ∧ 0xFE#8 &&& 0x01#8 = 0x00#8 ∧
    (answering [0, 0x01, 0, 0x00] [0]).Answers [0, 0x01, 0, 0x00] ∧ 0x01#8 &&& 0x01#8 = 0x01#8 :=
  ⟨by decide, by decide, answering_answers _ _, by decide, answering_answers _ _, by decide⟩
/-- KindsConsistent: an idle state in which both kinds respond, and one in which both wait for the bus. -/
theorem witness_KindsConsistent :
    (answering [0, 0xAA, 0, 0x55] [0]).Idle ∧ (scripted [none] [0]).Idle ∧
    (regsOf (exec (.rdmeas 0 0 0 0) (answering [0, 0xAA, 0, 0x55] [0]))).map Regs.rspValid = some true ∧
    (regsOf (exec (.rdmeas 0 0 0 0) (scripted [none] [0]))).map Regs.rspValid = some false := by decide
/-- RawCodeAssembly: the two byte pairs of raw code 1 (spec/95_test_vectors.md 2.3). -/
theorem witness_RawCodeAssembly : rawCode 0x00 0x02 = 1#15 ∧ rawCode 0x00 0x03 = 1#15 := by decide
/-- TemperatureRange: neighbours with a step of 0 and of 1 (spec/95_test_vectors.md 2.2). -/
theorem witness_TemperatureRange :
    (8192#15).toNat ≤ (8195#15).toNat ∧ (8195#15).toNat = (8194#15).toNat + 1 ∧
    temperatureTenths 8195#15 = temperatureTenths 8194#15 ∧ (8196#15).toNat = (8195#15).toNat + 1 ∧
    temperatureTenths 8196#15 = temperatureTenths 8195#15 + 1 := by decide
/-- TemperatureFormula: the least width. -/
theorem witness_TemperatureFormula : 20 ≤ 20 := by decide
/-- ReservedOperations: codes 0, 6 and 15. -/
theorem witness_ReservedOperations :
    (calling [{ rst := false, cmd := some 0x0F0000 }]).Idle ∧
    (calling [{ rst := false, cmd := some 0x0F0000 }]).env.callerAt 0 = { rst := false, cmd := some 0x0F0000 } ∧
    cmdOp 0x0F0000 = 0x0#4 ∧ 0x6#4 ≤ cmdOp 0x600000 ∧ 0x6#4 ≤ cmdOp 0xF00000 := by decide
/-- IgnoredFields: an idle state. -/
theorem witness_IgnoredFields : State.reset.Idle ∧ isCommand (.init 0xF 1 0x7F 0xFF) = true := by decide
/-- NothingPersists: two idle states with one environment and different registers and history. -/
theorem witness_NothingPersists :
    isCommand (.rdtemp 0 0 0) = true ∧ State.reset.Idle ∧
    State.Idle { State.reset with regs := { Regs.reset with rx := 0x80, lsb := 1, rspValid := true }
                                  trace := [.rsp .ok 1] } ∧
    State.reset.env = ({ State.reset with regs := { Regs.reset with rx := 0x80, lsb := 1, rspValid := true }
                                          trace := [.rsp .ok 1] } : State).env := by decide
/-- SameOperationRuns: two states of a fault check in progress that differ in registers it does not read. -/
theorem witness_SameOperationRuns :
    SameOperation (stateAt .hasflt .data [some 0x55])
      { stateAt .hasflt .data [some 0x55] with
        regs := { regsAt .hasflt .data with kind := 0xF, addr := 0x7F, wdata := 0xFF, rx := 1, lsb := 2, msb := 3 } } where
  trace := rfl
  pc := ⟨rfl, rfl⟩
  env := rfl
  valid := rfl
  response := by decide
  addr := by decide
  wdata := by decide
  kind := by decide
  rx := by decide
  lsb := by decide
  msb := by decide
/-- SameOperationRuns, both clauses: those two states take a step. -/
theorem witness_SameOperationRuns_step :
    (regsOf (step (stateAt .hasflt .data [some 0x55]))).map (fun r => (r.rspValid, r.rspData)) = some (true, 1) := by
  decide
/-- StatusesRaised, first clause: a command that ends with `OK` and one that does not. -/
theorem witness_StatusesRaised :
    (answering [0, 0] []).Idle ∧
    (regsOf (exec (.hasflt 0 0 0 0) (answering [0, 0] []))).map (fun r => (r.rspValid, r.rspStatus)) = some (true, .ok) ∧
    (regsOf (exec (.rdmeas 2 0 0 0) (answering [0, 0] []))).map (fun r => (r.rspValid, r.rspStatus)) =
      some (true, .invalidKind) := by decide
/-- StatusesRaised, second clause: INIT left waiting in its first frame. -/
theorem witness_StatusesRaised_waits :
    (scripted [none] []).Idle ∧
    (regsOf (exec (.init 0 0 0 0) (scripted [none] []))).map (fun r => (r.rspValid, r.seq)) =
      some (false, .initCW) := by decide
/-- StatusesRaised, third clause: from the state of `witness_Inv` a step that responds; a step that waits, and that it
meets the invariant. -/
theorem witness_StatusesRaised_busy :
    (stateAt .rdreg .data [some 0x3C]).regs.seq ≠ .idle ∧
    ((stateAt .rdreg .data [some 0x3C]).env.callerAt 0).rst = false ∧
    (regsOf (step { stateAt .rdreg .data [some 0x3C] with trace := [.csLow, .x 0x07 0x00] })).map Regs.rspValid =
      some true ∧
    (regsOf (step { stateAt .measLsb .addr [none] with trace := [.d 0, .csLow] })).map Regs.rspValid = some false := by
  decide
theorem witness_StatusesRaised_busy_waits :
    State.Inv { stateAt .measLsb .addr [none] with trace := [.d 0, .csLow] } where
  pcLegal := by decide
  kindRecognised := by decide
  validIdle := by decide
  dataZero := by decide
  validLast := by decide
  framed := by decide
/-- CommandsRespond: twelve exchanges complete. -/
theorem witness_CommandsRespond :
    isCommand (.init 0 0 0 0) = true ∧ (answering (List.replicate 12 0x80) []).Idle ∧
    (answering (List.replicate 12 0x80) []).Completes 12 := by
  refine ⟨by decide, by decide, ?_⟩
  unfold State.Completes
  decide
/-- BusCommandsFrame: a command that responds, one that waits, and a frame. -/
theorem witness_BusCommandsFrame :
    (answering [0, 0] []).Idle ∧
    (regsOf (exec (.wrreg 0 0 0x03 0xFF) (answering [0, 0] []))).map Regs.rspValid = some true ∧
    (regsOf (exec (.wrreg 0 0 0x03 0xFF) (scripted [none] []))).map Regs.rspValid = some false ∧
    (regsOf (exec (.wrFrame 0x03 0xFF) (stateAt .wrreg .select [some 0, some 0]))).map Regs.fe = some .release := by
  decide
/-- MeasureFrame: RDTEMP that waits for the bus. -/
theorem witness_MeasureFrame :
    (scripted [none] [0]).Idle ∧ (Instr.rdtemp 0 0 0).expand = .rdmeas 1 0 0 0 ∧
    (regsOf (exec (.rdtemp 0 0 0) (scripted [none] [0]))).map (fun r => (r.seq, r.fe, r.rspValid)) =
      some (.measLsb, .addr, false) := by decide
/-- StepRunsDecoded, first clause. -/
theorem witness_StepRunsDecoded_command :
    (calling [{ rst := false, cmd := some 0x100700 }]).Idle ∧
    (calling [{ rst := false, cmd := some 0x100700 }]).env.callerAt 0 = { rst := false, cmd := some 0x100700 } ∧
    decode (.cmd 0x100700#24) = .ok (.rdreg 0 0 0x07 0) := by decide
/-- StepRunsDecoded, second clause. -/
theorem witness_StepRunsDecoded_frame :
    (stateAt .initLL .select []).regs.seq.runsFrame = true ∧ (stateAt .initLL .select []).regs.fe = .select ∧
    ((stateAt .initLL .select []).env.callerAt 0).rst = false ∧
    decode (.wire (stateAt .initLL .select []).regs.wireWord) = .ok (.wrFrame 0x06 0x00) := by decide
/-- StepReset: reset with a command presented at the same time. -/
theorem witness_StepReset : ((calling [{ rst := true, cmd := some 0x100700 }]).env.callerAt 0).rst = true := by decide
/-- IdleStep. -/
theorem witness_IdleStep :
    (calling [{ rst := false, cmd := none }]).Idle ∧
    (calling [{ rst := false, cmd := none }]).env.callerAt 0 = { rst := false, cmd := none } := by decide
/-- CommandWhileBusyIgnored. -/
theorem witness_CommandWhileBusyIgnored : (stateAt .hasflt .addr [none]).regs.seq ≠ .idle := by decide
/-- HungBus: two steps with no exchange completed and no reset. -/
theorem witness_HungBus :
    (stateAt .rdreg .data [none, none]).regs.seq.runsFrame = true ∧
    ((stateAt .rdreg .data [none, none]).regs.fe = .addr ∨ (stateAt .rdreg .data [none, none]).regs.fe = .data) ∧
    ∀ k, k < 2 → (stateAt .rdreg .data [none, none]).env.answerAt k = none ∧
      ((stateAt .rdreg .data [none, none]).env.callerAt k).rst = false := by decide
/-- NoStepInExcludedStates. -/
theorem witness_NoStepInExcludedStates :
    pcLegal (stateAt .idle .data []).regs.seq (stateAt .idle .data []).regs.fe = false ∧
    ((stateAt .idle .data []).env.callerAt 0).rst = false := by decide
/-- StepKeepsInv and InvStateSteps: a state of the invariant in the middle of a frame. -/
theorem witness_Inv : State.Inv { stateAt .rdreg .data [some 0x3C] with trace := [.csLow, .x 0x07 0x00] } where
  pcLegal := by decide
  kindRecognised := by decide
  validIdle := by decide
  dataZero := by decide
  validLast := by decide
  framed := by decide
/-- StepKeepsInv: the step from it is a next state. -/
theorem witness_StepKeepsInv :
    ∃ t, step { stateAt .rdreg .data [some 0x3C] with trace := [.csLow, .x 0x07 0x00] } = .next t := ⟨_, rfl⟩
/-- ResponseHeld: a step that waits. -/
theorem witness_ResponseHeld :
    ((stateAt .rdreg .data [none]).env.callerAt 0).rst = false ∧
    (regsOf (step (stateAt .rdreg .data [none]))).map Regs.rspValid = some false := by decide
/-- AcceptEdge: an idle register file; each operation code of its clauses is one some command word has. -/
theorem witness_AcceptEdge :
    quietInputs.rst = false ∧ Regs.reset.seq = .idle ∧ Regs.reset.fe = .idle ∧ quietInputs.cmdValid = false ∧
    cmdOp 0x100000 = 0x1#4 ∧ cmdOp 0x200000 = 0x2#4 ∧ cmdOp 0x300000 = 0x3#4 ∧ cmdOp 0x400000 = 0x4#4 ∧
    cmdOp 0x510000 = 0x5#4 ∧ cmdKind 0x510000 = 0x1#4 ∧ cmdKind 0x520000 ≠ 0x0#4 ∧ cmdKind 0x520000 ≠ 0x1#4 ∧
    cmdOp 0x000000 = 0x0#4 ∧ 0x6#4 ≤ cmdOp 0x600000 ∧ (regsAt .rdreg .addr).seq ≠ .idle ∧
    (edge quietInputs (regsAt .rdreg .addr)).isSome = true ∧ (edge quietInputs Regs.reset).isSome = true := by decide
/-- FrameEdges: each phase, with the exchange complete and not. -/
theorem witness_FrameEdges :
    (regsAt .wrreg .select).seq.runsFrame = true ∧ (regsAt .wrreg .select).fe = .select ∧
    (regsAt .wrreg .addr).fe = .addr ∧ (regsAt .wrreg .data).fe = .data ∧
    ({ quietInputs with xferDone := true } : Inputs).xferDone = true ∧
    (∀ i ∈ [quietInputs, quietInputs], i.rst = false ∧ i.xferDone = false) ∧
    (edge quietInputs (regsAt .initCW .release)).map (fun p => (p.1.fe, p.2)) = some (.select, [.csLow]) := by decide
/-- ReleaseEdges: the read-back of INIT equal to `0x80` and not. -/
theorem witness_ReleaseEdges :
    (regsAt .initCR .release).fe = .release ∧ ({ regsAt .initCR .release with rx := 0x80 } : Regs).rx = 0x80#8 ∧
    (regsAt .initCR .release).rx ≠ 0x80#8 ∧
    (edge { quietInputs with xferDone := true } (regsAt .initCR .data)).map (fun p => p.1.fe) = some .release := by
  decide
/-- MeasureEdges: the states and the two outcomes of each test. -/
theorem witness_MeasureEdges :
    (regsAt .measChk .idle).fe = .idle ∧ quietInputs.drdyN = 1#1 ∧
    ({ quietInputs with drdyN := 0 } : Inputs).drdyN = 0#1 ∧
    ({ regsAt .measFlt .idle with lsb := 0x01 } : Regs).lsb.getLsbD 0 = true ∧
    (regsAt .measFlt .idle).lsb.getLsbD 0 = false ∧ (regsAt .measDec .idle).kind = 0x0#4 ∧
    ({ regsAt .measDec .idle with kind := 1 } : Regs).kind = 0x1#4 ∧
    ((edge quietInputs (regsAt .measFlt .idle)).map (fun p => (p.1.seq, p.1.kind)) = some (.measDec, 0x0#4)) ∧
    (regsAt .measMsb .data).seq ≠ .measChk := by decide
/-- InputsIgnored: two different inputs, and registers that look at none of the difference. -/
theorem witness_InputsIgnored :
    quietInputs.rst = ({ quietInputs with cmdValid := true, cmd := 0x100700, xferDone := true, drdyN := 0 } : Inputs).rst ∧
    (regsAt .rdreg .select).seq ≠ .idle ∧ (regsAt .rdreg .select).xferReq = false ∧
    (regsAt .rdreg .select).seq ≠ .measChk := by decide
/-- WriteBeforeRead: two different idle register files. -/
theorem witness_WriteBeforeRead :
    Regs.reset.seq = .idle ∧ Regs.reset.fe = .idle ∧
    ({ Regs.reset with rx := 0x80, kind := 2, rspData := 7 } : Regs).seq = .idle ∧
    ({ Regs.reset with rx := 0x80, kind := 2, rspData := 7 } : Regs).fe = .idle := by decide
/-- EdgeReset and StepReset: reset in the middle of a frame, with the exchange completing. -/
theorem witness_EdgeReset : ({ quietInputs with rst := true, xferDone := true } : Inputs).rst = true := by decide
/-- EdgeKeepsPcLegal and EdgeResponse: an edge that ends an operation and one that does not. -/
theorem witness_EdgeResponse :
    pcLegal (regsAt .wrreg .release).seq (regsAt .wrreg .release).fe = true ∧ quietInputs.rst = false ∧
    (edge quietInputs (regsAt .wrreg .release)).map (fun p => p.1.rspValid) = some true ∧
    (edge quietInputs (regsAt .wrreg .select)).map (fun p => p.1.rspValid) = some false := by decide
/-- FrameCycles: `Ta = 2`, `Td = 1`. -/
theorem witness_FrameCycles :
    (regsAt .rdreg .select).seq.runsFrame = true ∧ (regsAt .rdreg .select).fe = .select ∧
    (∀ i ∈ [quietInputs, quietInputs], i.rst = false ∧ i.xferDone = false) ∧
    ({ quietInputs with xferDone := true } : Inputs).xferDone = true := by decide
/-- Refinement: the run of spec/95_test_vectors.md 3.5, which ends idle, meets every hypothesis. -/
theorem witness_Refinement :
    (answering [0x00, 0x3C] []).Idle ∧
    (edge { quietInputs with cmdValid := true, cmd := 0x100700 } (answering [0x00, 0x3C] []).regs).map
      (fun p => (p.2, busyThroughout (cycleInputs.drop 1) p.1, bytesReceived (cycleInputs.drop 1) p.1,
        levelsSampled (cycleInputs.drop 1) p.1,
        (edges (cycleInputs.drop 1) p.1).map (fun q => q.1.seq))) =
      some ([.csLow], true, [0x00, 0x3C], [], some .idle) ∧
    (∀ i ∈ cycleInputs.drop 1, i.rst = false) ∧
    (answering [0x00, 0x3C] []).Answers [0x00, 0x3C] :=
  ⟨by decide, by rfl, by decide, answering_answers _ _⟩
/-- Refinement: the same command left waiting in `F_DATA`, where the next sample completes no exchange. -/
theorem witness_Refinement_waits :
    (scripted [some 0x00, none] []).Idle ∧
    (edge { quietInputs with cmdValid := true, cmd := 0x100700 } (scripted [some 0x00, none] []).regs).map
      (fun p => (p.2, busyThroughout ((cycleInputs.drop 1).take 3) p.1, bytesReceived ((cycleInputs.drop 1).take 3) p.1,
        levelsSampled ((cycleInputs.drop 1).take 3) p.1,
        (edges ((cycleInputs.drop 1).take 3) p.1).map (fun q => (q.1.seq, q.1.fe)))) =
      some ([.csLow], true, [0x00], [], some (.rdreg, .data)) ∧
    (∀ i ∈ (cycleInputs.drop 1).take 3, i.rst = false) ∧
    (scripted [some 0x00, none] []).env.answerAt 1 = none ∧ (scripted [some 0x00, none] []).Answers [0x00] := by
  refine ⟨by decide, by rfl, by decide, by decide, ?_⟩
  intro k b h
  cases k <;> simp_all [scripted, Env.answerAt]
/-- StepGoesOn: an operation that waited in `F_DATA` and ends, by an edge that completes the exchange and the one after
it. -/
theorem witness_StepGoesOn :
    pcLegal .rdreg .data = true ∧ (stateAt .rdreg .data [some 0x3C]).regs.seq ≠ .idle ∧
    ((stateAt .rdreg .data [some 0x3C]).env.callerAt 0).rst = false ∧
    (∀ i ∈ cycleInputs.drop 4, i.rst = false) ∧ busyThroughout (cycleInputs.drop 4) (regsAt .rdreg .data) = true ∧
    (edges (cycleInputs.drop 4) (regsAt .rdreg .data)).map (fun p => p.1.seq) = some .idle ∧
    bytesReceived (cycleInputs.drop 4) (regsAt .rdreg .data) = [0x3C] ∧
    levelsSampled (cycleInputs.drop 4) (regsAt .rdreg .data) = [] ∧
    (stateAt .rdreg .data [some 0x3C]).Answers [0x3C] :=
  ⟨by decide, by decide, by decide, by decide, by decide, by decide, by decide, by decide, answers_of_script _ _ rfl⟩
/-- StepGoesOn: INIT that waited in its third frame and waits again, in `F_ADDR` of its fourth. -/
theorem witness_StepGoesOn_waits :
    (edges (cycleInputs.drop 4 ++ [quietInputs]) (regsAt .initHM .data)).map (fun p => (p.1.seq, p.1.fe)) =
      some (.initHL, .addr) ∧
    busyThroughout (cycleInputs.drop 4 ++ [quietInputs]) (regsAt .initHM .data) = true ∧
    bytesReceived (cycleInputs.drop 4 ++ [quietInputs]) (regsAt .initHM .data) = [0x3C] ∧
    (stateAt .initHM .data [some 0x3C, none]).env.answerAt 1 = none ∧
    (stateAt .initHM .data [some 0x3C, none]).env.answerAt 0 = some 0x3C := by decide
/-- StepGoesOn: the check of data-ready, ended by one edge with the level sampled 1. -/
theorem witness_StepGoesOn_level :
    (edges [quietInputs] (regsAt .measChk .idle)).map (fun p => p.1.seq) = some .idle ∧
    levelsSampled [quietInputs] (regsAt .measChk .idle) = [1#1] ∧
    bytesReceived [quietInputs] (regsAt .measChk .idle) = [] ∧ (answering [] [1]).env.levelAt 0 = 1#1 := by decide
/-- InitGoesOn: a state of INIT that waits in `F_DATA` with the bytes `bs` to come meets the hypotheses. -/
theorem initWaiting (q : SeqState) (bs : List Byte) :
    (stateAt q .data (bs.map some)).regs.fe = .data ∧ (stateAt q .data (bs.map some)).regs.seq = q ∧
    ((stateAt q .data (bs.map some)).env.callerAt 0).rst = false ∧ (stateAt q .data (bs.map some)).Answers bs :=
  ⟨rfl, rfl, rfl, answers_of_script _ _ rfl⟩
/-- InitGoesOn, each clause, the third with a read-back one bit from `0x80`. -/
theorem witness_InitGoesOn :
    (stateAt .initCW .data ([1, 2, 0x80, 3, 4, 5, 6, 7, 8, 9, 10].map some)).Answers [1, 2, 0x80, 3, 4, 5, 6, 7, 8, 9, 10] ∧
    (stateAt .initCR .data ([0x80, 3, 4, 5, 6, 7, 8, 9, 10].map some)).Answers [0x80, 3, 4, 5, 6, 7, 8, 9, 10] ∧
    ((stateAt .initCR .data ([0x81].map some)).Answers [0x81] ∧ (0x81#8) ≠ 0x80#8) ∧
    (stateAt .initHM .data ([1, 2, 3, 4, 5, 6, 7].map some)).Answers [1, 2, 3, 4, 5, 6, 7] ∧
    (stateAt .initHL .data ([1, 2, 3, 4, 5].map some)).Answers [1, 2, 3, 4, 5] ∧
    (stateAt .initLM .data ([1, 2, 3].map some)).Answers [1, 2, 3] ∧
    (stateAt .initLL .data ([1].map some)).Answers [1] :=
  ⟨(initWaiting _ _).2.2.2, (initWaiting _ _).2.2.2, ⟨(initWaiting _ _).2.2.2, by decide⟩, (initWaiting _ _).2.2.2,
    (initWaiting _ _).2.2.2, (initWaiting _ _).2.2.2, (initWaiting _ _).2.2.2⟩

end Sys2Proof.Tests
end

section
/-! The edges of the cycle level (spec/45_sequencer.md R110 to R120): everything an edge with no reset can do, once. -/

namespace Sys2Proof.Machine

/-- What an edge at which no operation ends does to the response, to the place and to the trace. -/
structure Regs.GoesOn (inp : Inputs) (r r' : Regs) (ev : List Event) : Prop where
  valid : r'.rspValid = false
  held : r'.rspStatus = r.rspStatus ∧ r'.rspData = r.rspData
  legal : pcLegal r'.seq r'.fe = true
  kind : r'.seq.measuring = true →
    kindRecognised r'.kind = true ∨ (r.seq.measuring = true ∧ r'.kind = r.kind)
  framed : Bracket.run r.fe.bracket ev = some r'.fe.bracket
  idle : r'.seq = .idle → r.seq = .idle ∧ inp.cmdValid = false

/-- What an edge at which an operation ends does (R131, R132). -/
structure Regs.Responds (r r' : Regs) (ev : List Event) : Prop where
  valid : r'.rspValid = true
  idle : r'.seq = .idle ∧ r'.fe = .idle
  dataZero : r'.rspStatus ≠ .ok → r'.rspData = 0x0000#16
  last : ev.getLast? = some (.rsp r'.rspStatus r'.rspData)
  framed : Bracket.run r.fe.bracket ev = some .ended

theorem Regs.edgeRespond_responds {r : Regs} (l : Regs) {pre : List Event} {st : Status} {d : RspData}
    (hd : st ≠ .ok → d = 0x0000#16) (hpre : Bracket.run r.fe.bracket pre = some .outside) :
    r.Responds (l.edgeRespond st d).1 (pre ++ (l.edgeRespond st d).2) where
  valid := rfl
  idle := ⟨rfl, rfl⟩
  dataZero := hd
  last := by simp [Regs.edgeRespond]
  framed := by simp [Bracket.run_append, hpre, Regs.edgeRespond]

theorem Regs.edgeStart_goesOn {inp : Inputs} {r l : Regs} {pre : List Event} {q : SeqState}
    (hq : q.runsFrame = true) (held : l.rspStatus = r.rspStatus ∧ l.rspData = r.rspData)
    (kind : q.measuring = true → r.seq.measuring = true ∧ l.kind = r.kind)
    (hpre : Bracket.run r.fe.bracket pre = some .outside) :
    Regs.GoesOn inp r (l.edgeStart q).1 (pre ++ (l.edgeStart q).2) where
  valid := rfl
  held := held
  legal := hq
  kind h := .inr (kind h)
  framed := by rw [Bracket.run_append, hpre]; rfl
  idle h := by cases (show q = .idle from h); cases hq

/-- An edge with no event at which the sequencer moves or waits. -/
theorem Regs.goesOn_of_no_event {inp : Inputs} {r r' : Regs} (valid : r'.rspValid = false)
    (held : r'.rspStatus = r.rspStatus ∧ r'.rspData = r.rspData) (legal : pcLegal r'.seq r'.fe = true)
    (kind : r'.seq.measuring = true → kindRecognised r'.kind = true ∨ (r.seq.measuring = true ∧ r'.kind = r.kind))
    (phase : r'.fe.bracket = r.fe.bracket)
    (idle : r'.seq = .idle → r.seq = .idle ∧ inp.cmdValid = false) : Regs.GoesOn inp r r' [] where
  valid := valid
  held := held
  legal := legal
  kind := kind
  framed := by rw [phase]; rfl
  idle := idle

/-- An edge inside a frame keeps everything but the phase and `RX`. -/
theorem Regs.goesOn_of_phase {inp : Inputs} {r : Regs} {f : FramePhase} {b : Byte} {ev : List Event}
    (hq : r.seq.runsFrame = true) (hf : f ≠ .idle) (hev : Bracket.run r.fe.bracket ev = some f.bracket) :
    Regs.GoesOn inp r { r.hush with rx := b, fe := f } ev where
  valid := rfl
  held := ⟨rfl, rfl⟩
  legal := by
    cases f with
    | idle => exact absurd rfl hf
    | _ => exact hq
  kind h := .inr ⟨h, rfl⟩
  framed := hev
  idle h := by rw [show r.seq = .idle from h] at hq; cases hq

/-- The edge that accepts a command (R112). -/
theorem Regs.edgeAccept_cases {inp : Inputs} {r : Regs} (w : CmdWord) (hf : r.fe = .idle) :
    Regs.GoesOn inp r (r.edgeAccept w).1 (r.edgeAccept w).2 ∨ r.Responds (r.edgeAccept w).1 (r.edgeAccept w).2 := by
  have hpre : Bracket.run r.fe.bracket [] = some .outside := by rw [hf]; rfl
  have start : ∀ {l : Regs} {q : SeqState}, q.runsFrame = true → q.measuring = false →
      (l.rspStatus = r.rspStatus ∧ l.rspData = r.rspData) →
      Regs.GoesOn inp r (l.edgeStart q).1 (l.edgeStart q).2 := fun hq hm hl =>
    Regs.edgeStart_goesOn hq hl (by simp [hm]) hpre
  unfold Regs.edgeAccept
  split_ifs with h1 h2 h3 h4 h5 hk
  · exact .inl (start rfl rfl ⟨rfl, rfl⟩)
  · exact .inl (start rfl rfl ⟨rfl, rfl⟩)
  · exact .inl (start rfl rfl ⟨rfl, rfl⟩)
  · exact .inl (start rfl rfl ⟨rfl, rfl⟩)
  · refine .inl (Regs.goesOn_of_no_event rfl ⟨rfl, rfl⟩ ?_ ?_ rfl (by simp))
    · simp [Regs.hush, pcLegal, hf, SeqState.runsFrame]
    · exact fun _ => .inl ((kindRecognised_iff _).2 hk)
  · exact .inr (Regs.edgeRespond_responds _ (fun _ => rfl) hpre)
  · exact .inr (Regs.edgeRespond_responds _ (fun _ => rfl) hpre)

/-- The edge that ends `F_RELEASE` (R116). -/
theorem Regs.edgeRelease_cases {inp : Inputs} {r r' : Regs} {ev : List Event} (hf : r.fe = .release)
    (h : r.edgeRelease = some (r', ev)) : Regs.GoesOn inp r r' ev ∨ r.Responds r' ev := by
  have hpre : Bracket.run r.fe.bracket [] = some .outside := by rw [hf]; rfl
  have start : ∀ {l : Regs} {q : SeqState}, (r', ev) = l.edgeStart q → q.runsFrame = true →
      (l.rspStatus = r.rspStatus ∧ l.rspData = r.rspData) →
      (q.measuring = true → r.seq.measuring = true ∧ l.kind = r.kind) → Regs.GoesOn inp r r' ev := by
    rintro l q ⟨⟩ hq hl hk
    exact Regs.edgeStart_goesOn hq hl hk hpre
  have respond : ∀ {st : Status} {d : RspData}, (r', ev) = r.edgeRespond st d → (st ≠ .ok → d = 0x0000#16) →
      r.Responds r' ev := by
    rintro st d ⟨⟩ hd
    exact Regs.edgeRespond_responds r hd hpre
  cases hq : r.seq <;> simp only [Regs.edgeRelease, hq, Option.some.injEq, reduceCtorEq] at h
  case rdreg | wrreg | initLL | hasflt => exact .inr (respond h.symm (by simp))
  case initCW | initHM | initHL | initLM => exact .inl (start h.symm rfl ⟨rfl, rfl⟩ (by simp [SeqState.measuring]))
  case initCR =>
    split_ifs at h
    · exact .inl (start h.symm rfl ⟨rfl, rfl⟩ (by simp [SeqState.measuring]))
    · exact .inr (respond h.symm (fun _ => rfl))
  case measLsb => exact .inl (start h.symm rfl ⟨rfl, rfl⟩ (by simp [SeqState.measuring, hq]))
  case measMsb =>
    cases h
    exact .inl (Regs.goesOn_of_no_event rfl ⟨rfl, rfl⟩ rfl (by simp [SeqState.measuring, hq, Regs.hush])
      (by rw [hf]; rfl) (by simp))

/-- The edge of a state outside any frame (R112, R117 to R119). -/
theorem Regs.edgeOutside_cases {inp : Inputs} {r r' : Regs} {ev : List Event} (hf : r.fe = .idle)
    (h : r.edgeOutside inp = some (r', ev)) : Regs.GoesOn inp r r' ev ∨ r.Responds r' ev := by
  have hpre : ∀ l, Bracket.run r.fe.bracket [] = some .outside ∧ Bracket.run r.fe.bracket [.d l] = some .outside := by
    intro l; rw [hf]; exact ⟨rfl, rfl⟩
  have respond : ∀ {st : Status} {d : RspData}, r.edgeRespond st d = (r', ev) → (st ≠ .ok → d = 0x0000#16) →
      r.Responds r' ev := by
    rintro st d ⟨⟩ hd
    exact Regs.edgeRespond_responds r hd (hpre 0).1
  cases hq : r.seq <;> simp only [Regs.edgeOutside, hq, Option.some.injEq, reduceCtorEq] at h
  case idle =>
    split_ifs at h with hv
    · have ha := Regs.edgeAccept_cases (inp := inp) inp.cmd hf
      rwa [h] at ha
    · cases h
      exact .inl (Regs.goesOn_of_no_event rfl ⟨rfl, rfl⟩ (by simp [Regs.hush, hq, hf, pcLegal, SeqState.runsFrame])
        (by simp [Regs.hush, hq, SeqState.measuring]) rfl
        (fun _ => ⟨hq, by simpa using hv⟩))
  case measChk =>
    split_ifs at h <;> cases h
    · exact .inr (Regs.edgeRespond_responds r (fun _ => rfl) (hpre _).2)
    · exact .inl (Regs.edgeStart_goesOn (l := r) rfl ⟨rfl, rfl⟩ (by simp [SeqState.measuring, hq]) (hpre _).2)
  case measFlt =>
    split_ifs at h
    · exact .inr (respond h (fun _ => rfl))
    · cases h
      exact .inl (Regs.goesOn_of_no_event rfl ⟨rfl, rfl⟩ (by simp [Regs.hush, hf, pcLegal, SeqState.runsFrame])
        (by simp [SeqState.measuring, hq, Regs.hush]) rfl (by simp))
  case measDec =>
    split_ifs at h
    · exact .inr (respond (by simpa using h) (by simp))
    · exact .inr (respond (by simpa using h) (by simp))

/-- Everything an edge with no reset can do: an operation ends at it, or none does. -/
theorem edge_cases {inp : Inputs} {r r' : Regs} {ev : List Event} (hr : inp.rst = false)
    (h : edge inp r = some (r', ev)) : Regs.GoesOn inp r r' ev ∨ r.Responds r' ev := by
  unfold edge at h
  rw [if_neg (by simp [hr])] at h
  cases hf : r.fe <;> simp only [hf] at h
  case idle => exact Regs.edgeOutside_cases hf h
  case release => exact Regs.edgeRelease_cases hf h
  case select =>
    split_ifs at h with hq
    cases h
    exact .inl (Regs.goesOn_of_phase (b := r.rx) hq (by simp) (by rw [hf]; rfl))
  case addr =>
    split_ifs at h with hq <;> cases h
    · exact .inl (Regs.goesOn_of_phase (b := r.rx) hq (by simp) (by rw [hf]; rfl))
    · exact .inl (Regs.goesOn_of_phase (f := r.fe) (b := r.rx) hq (by simp [hf]) rfl)
  case data =>
    split_ifs at h with hq <;> cases h
    · exact .inl (Regs.goesOn_of_phase hq (by simp) (by rw [hf]; rfl))
    · exact .inl (Regs.goesOn_of_phase (f := r.fe) (b := r.rx) hq (by simp [hf]) rfl)

/-- Settles O48: an edge answers the reset registers, goes on at a pair R16 allows, or responds at the idle pair. -/
theorem edgeKeepsPcLegal : Obligations.EdgeKeepsPcLegal := by
  intro inp r r' ev _ h
  cases hr : inp.rst with
  | true =>
    obtain ⟨rfl, -⟩ : Regs.reset = r' ∧ [] = ev := by simpa [edge, hr] using h
    rfl
  | false =>
    obtain hg | hg := edge_cases hr h
    · exact hg.legal
    · rw [hg.idle.1, hg.idle.2]; rfl

end Sys2Proof.Machine
end

section
/-! Reset (spec/10_state.md R24, spec/70_reset_and_hazards.md R140). -/

namespace Sys2Proof.Machine

/-- Registers as after reset, with an empty trace, meet the invariant whatever the environment. -/
theorem State.inv_of_reset {s : State} (hr : s.regs = Regs.reset) (ht : s.trace = []) : s.Inv where
  pcLegal := by rw [hr]; rfl
  kindRecognised := by rw [hr]; exact fun h => by cases h
  validIdle := by rw [hr]; exact fun _ => rfl
  dataZero := by rw [hr]; exact fun _ => rfl
  validLast := by rw [hr]; exact fun h => by cases h
  framed := by rw [hr, ht]; rfl

/-- Settles O31: each register is read off the definition of the reset state. -/
theorem resetValues : Obligations.ResetValues :=
  ⟨rfl, rfl, rfl, rfl, rfl, rfl, rfl, rfl, rfl, rfl, rfl, rfl, rfl, rfl, rfl, rfl⟩

/-- Settles O36. -/
theorem resetInv : Obligations.ResetInv := State.inv_of_reset rfl rfl

end Sys2Proof.Machine
end

section
/-! The step of the transaction level as edges of the cycle level (R123): the environment of the state supplies the inputs
of each edge, and one step takes edges until the operation has ended or a sample completes no exchange. -/

namespace Sys2Proof.Machine

/-- What the agents show the block at its next edge with no reset, the command port showing `cmd`. -/
def State.inputs (s : State) (cmd : Option CmdWord) : Inputs where
  rst := false
  cmdValid := cmd.isSome
  cmd := cmd.getD 0
  xferDone := (s.env.answerAt 0).isSome
  xferRx := (s.env.answerAt 0).getD 0
  drdyN := s.env.levelAt 0

/-- The environment after the next edge, which samples the exchange port or the data-ready input, or neither. -/
def State.envNext (s : State) : Env :=
  if s.regs.xferReq then s.env.dropAnswers 1
  else if s.regs.seq = .measChk then s.env.popLevel
  else s.env

/-- The trace the next edge adds its events to: the acceptance of a command begins a new one. -/
def State.traceBegun (s : State) (cmd : Option CmdWord) : List Event :=
  if s.regs.seq = .idle ∧ cmd.isSome = true then [] else s.trace

/-- The state after the next edge. -/
def State.afterEdge (s : State) (cmd : Option CmdWord) : Option State :=
  (edge (s.inputs cmd) s.regs).map fun p =>
    { regs := p.1, env := s.envNext, trace := s.traceBegun cmd ++ p.2 }

/-- The exchange port is sampled at the next edge and shows no completed exchange. -/
def State.waits (s : State) : Bool := s.regs.xferReq && (s.env.answerAt 0).isNone

/-- The state has no further edge: Decode and Return with a kind R119 excludes. -/
def State.stuck (s : State) : Bool := s.regs.seq == .measDec && !kindRecognised s.regs.kind

/-- The edge from `s` to `t` is the last of a step. -/
def State.Stops (s t : State) : Prop := s.waits = true ∨ t.regs.seq = .idle ∨ t.stuck = true

/-- One step leads from `s` to `t` by edges, the command port showing `cmd`. -/
inductive State.Goes (cmd : Option CmdWord) : State → State → Prop
  | last {s t : State} : s.afterEdge cmd = some t → s.Stops t → State.Goes cmd s t
  | more {s t t' : State} : s.afterEdge cmd = some t → ¬ s.Stops t → State.Goes cmd t t' → State.Goes cmd s t'

/-- How far the operation in progress has come; every edge that does not stop the step moves it on. -/
def Regs.place (r : Regs) : Nat := r.seq.code.toNat * 5 + r.fe.code.toNat

theorem Regs.place_lt (r : Regs) : r.place < 75 := by
  have hq : r.seq.code.toNat ≤ 14 := by cases r.seq <;> decide
  have hf : r.fe.code.toNat ≤ 4 := by cases r.fe <;> decide
  unfold Regs.place
  omega

/-- A state that runs a frame is none of those the step treats apart: idle, the ready check, Decode and Return. -/
theorem SeqState.ne_of_runsFrame {q : SeqState} (h : q.runsFrame = true) :
    q ≠ .idle ∧ q ≠ .measDec ∧ q ≠ .measChk := by
  refine ⟨?_, ?_, ?_⟩ <;> (rintro rfl; cases h)

theorem SeqState.code_pos {q : SeqState} (h : q ≠ .idle) : 0 < q.code.toNat := by
  cases q with
  | idle => contradiction
  | _ => decide

/-- A later sequencer state is a later place. -/
theorem Regs.place_lt_of_seq {r r' : Regs} (h : r.seq.code.toNat < r'.seq.code.toNat) : r.place < r'.place := by
  have hf : r.fe.code.toNat ≤ 4 := by cases r.fe <;> decide
  unfold Regs.place
  omega

/-- `o` is what going on from `s` answers, by the next edge: the state after it, or what going on from there answers. -/
def State.ByEdge (s : State) (cmd : Option CmdWord) (o : Host.Outcome State Fault Refusal) : Prop :=
  ∃ t, s.afterEdge cmd = some t ∧
    ((s.Stops t ∧ o = .next t) ∨ (¬ s.Stops t ∧ s.regs.place < t.regs.place ∧ o = goOn t))

/-! ### Going on after the start of a frame -/

theorem State.frame_seq (s : State) (q : SeqState) (ab db : Byte) : (s.frame q ab db).regs.seq = q := by
  obtain ⟨_, _, _, _, h⟩ | ⟨_, h⟩ | ⟨_, _, _, h⟩ := s.frame_cases q ab db <;> rw [h]

/-- What is said to follow a frame matters only in the sequencer state of the frame. -/
theorem State.frame_afterFrame_congr (s : State) (q : SeqState) (ab db : Byte) {k l : State → State}
    (h : ∀ t : State, t.regs.seq = q → k t = l t) :
    (s.frame q ab db).afterFrame k = (s.frame q ab db).afterFrame l := by
  by_cases hf : (s.frame q ab db).regs.fe = .release
  · rw [State.afterFrame_of_release _ _ hf, State.afterFrame_of_release _ _ hf, h _ (s.frame_seq q ab db)]
  · rw [State.afterFrame_of_not_release _ _ hf, State.afterFrame_of_not_release _ _ hf]

/-- Going on with chip-select just asserted is the frame of `q` and what follows it. -/
theorem goOn_start (s : State) (q : SeqState) {k : State → State} (hq : q.runsFrame = true)
    (hv : s.quiet = s) (hk : ∀ t : State, t.regs.seq = q → k t = afterRelease t) :
    goOn (s.start q) =
      .next ((s.frame q (s.start q).regs.abyte (s.start q).regs.dbyte).afterFrame k) := by
  have hs : (s.start q).quiet = s.start q := congrArg (fun t : State => t.start q) hv
  rw [State.frame_afterFrame_congr s q _ _ hk, goOn_of_legal (s.start q) hq]
  simp only [State.start_regs, hs]
  rfl

/-- The edge that starts the frame of `q` does not stop the step. -/
theorem State.byEdge_of_start {s t : State} {cmd : Option CmdWord} {q : SeqState} {k : State → State}
    {o : Host.Outcome State Fault Refusal} (he : s.afterEdge cmd = some (t.start q)) (hw : s.waits = false)
    (hp : s.regs.place < (t.start q).regs.place) (hq : q.runsFrame = true) (hv : t.quiet = t)
    (hk : ∀ t : State, t.regs.seq = q → k t = afterRelease t)
    (ho : o = .next ((t.frame q (t.start q).regs.abyte (t.start q).regs.dbyte).afterFrame k)) : s.ByEdge cmd o := by
  refine ⟨_, he, .inr ⟨?_, hp, ho.trans (goOn_start t q hq hv hk).symm⟩⟩
  obtain ⟨hi, hd, -⟩ := SeqState.ne_of_runsFrame hq
  simp [State.Stops, hw, hi, hd, State.stuck]

/-! ### Going on, phase by phase -/

/-- An edge of a busy block adds its events to the trace. -/
theorem State.afterEdge_of_edge {s : State} {cmd : Option CmdWord} {r : Regs} {ev : List Event}
    (hb : s.regs.seq ≠ .idle) (h : edge (s.inputs cmd) s.regs = some (r, ev)) :
    s.afterEdge cmd = some { regs := r, env := s.envNext, trace := s.trace ++ ev } := by
  simp [State.afterEdge, State.traceBegun, hb, h]

section
variable {s : State} (cmd : Option CmdWord)

/-- The edge at which a sample completes no exchange is the last of the step (R114, R115). -/
theorem State.byEdge_of_wait {o : Host.Outcome State Fault Refusal} (hb : s.regs.seq ≠ .idle)
    (hx : s.regs.xferReq = true) (ha : s.env.answerAt 0 = none)
    (he : edge (s.inputs cmd) s.regs = some (s.regs.hush, []))
    (ho : o = .next (s.quiet.setEnv (s.env.dropAnswers 1))) : s.ByEdge cmd o := by
  refine ⟨_, State.afterEdge_of_edge hb he, .inl ⟨.inl (by simp [State.waits, hx, ha]), ho.trans ?_⟩⟩
  simp [State.setEnv, State.quiet, Regs.hush, State.envNext, hx]

/-- The edge of a busy block at which the operation ends with `respond` is the last of the step. -/
theorem State.byEdge_of_respond {t : State} {st : Status} {d : RspData} {o : Host.Outcome State Fault Refusal}
    (he : s.afterEdge cmd = some (t.respond st d)) (ho : o = .next (t.respond st d)) : s.ByEdge cmd o :=
  ⟨_, he, .inl ⟨.inr (.inl rfl), ho⟩⟩

/-- `F_SELECT` (R113). -/
theorem goOn_byEdge_of_select (hq : s.regs.seq.runsFrame = true) (hf : s.regs.fe = .select) :
    s.ByEdge cmd (goOn s) := by
  have hb := SeqState.ne_of_runsFrame hq
  have hl : pcLegal s.regs.seq s.regs.fe = true := by rw [hf]; exact hq
  have he : edge (s.inputs cmd) s.regs = some ({ s.regs.hush with fe := .addr }, []) := by
    simp [edge, State.inputs, hf, hq]
  refine ⟨s.quiet.setFe .addr, ?_, .inr ⟨?_, ?_, ?_⟩⟩
  · rw [State.afterEdge_of_edge hb.1 he]
    simp [State.envNext, Regs.xferReq, hf, hb]
    rfl
  · simp [State.Stops, State.waits, Regs.xferReq, hf, hb, State.stuck]
  · simp [Regs.place, hf, FramePhase.code]
  · rw [goOn_of_legal s hl, hf, goOn_of_legal (s.quiet.setFe .addr) hq]
    rfl

/-- `F_ADDR` (R114). -/
theorem goOn_byEdge_of_addr (hq : s.regs.seq.runsFrame = true) (hf : s.regs.fe = .addr) :
    s.ByEdge cmd (goOn s) := by
  have hb := SeqState.ne_of_runsFrame hq
  have hl : pcLegal s.regs.seq s.regs.fe = true := by rw [hf]; exact hq
  have hv : s.envNext = s.env.dropAnswers 1 := by simp [State.envNext, Regs.xferReq, hf]
  cases ha : s.env.answerAt 0 with
  | none =>
    have he : edge (s.inputs cmd) s.regs = some (s.regs.hush, []) := by
      simp [edge, State.inputs, hf, hq, ha]
    have ho : goOn s = .next (s.quiet.setEnv (s.env.dropAnswers 1)) := by
      rw [goOn_of_legal s hl, hf]
      dsimp only
      rw [State.frameAddr_waits s.quiet _ _ ha, State.afterFrame_of_not_release _ _ (by simp [hf])]
      rfl
    exact State.byEdge_of_wait cmd hb.1 (by simp [Regs.xferReq, hf]) ha he ho
  | some b =>
    have he : edge (s.inputs cmd) s.regs = some ({ s.regs.hush with fe := .data }, [.x s.regs.abyte b]) := by
      simp [edge, State.inputs, hf, hq, ha]
    refine ⟨_, State.afterEdge_of_edge hb.1 he, .inr ⟨?_, ?_, ?_⟩⟩
    · simp [State.Stops, State.waits, ha, hb, State.stuck, Regs.hush]
    · simp [Regs.place, hf, FramePhase.code, Regs.hush]
    · rw [goOn_of_legal s hl, hf, hv, goOn_of_legal _ (by exact hq)]
      simp [State.frameAddr, ha]
      rfl

/-- `F_DATA` (R115). -/
theorem goOn_byEdge_of_data (hq : s.regs.seq.runsFrame = true) (hf : s.regs.fe = .data) :
    s.ByEdge cmd (goOn s) := by
  have hb := SeqState.ne_of_runsFrame hq
  have hl : pcLegal s.regs.seq s.regs.fe = true := by rw [hf]; exact hq
  have hv : s.envNext = s.env.dropAnswers 1 := by simp [State.envNext, Regs.xferReq, hf]
  cases ha : s.env.answerAt 0 with
  | none =>
    have he : edge (s.inputs cmd) s.regs = some (s.regs.hush, []) := by
      simp [edge, State.inputs, hf, hq, ha]
    have ho : goOn s = .next (s.quiet.setEnv (s.env.dropAnswers 1)) := by
      rw [goOn_of_legal s hl, hf]
      dsimp only
      rw [State.frameData_waits s.quiet _ ha, State.afterFrame_of_not_release _ _ (by simp [hf])]
      rfl
    exact State.byEdge_of_wait cmd hb.1 (by simp [Regs.xferReq, hf]) ha he ho
  | some b =>
    have he : edge (s.inputs cmd) s.regs =
        some ({ s.regs.hush with rx := b, fe := .release }, [.x s.regs.dbyte b, .csHigh]) := by
      simp [edge, State.inputs, hf, hq, ha]
    refine ⟨_, State.afterEdge_of_edge hb.1 he, .inr ⟨?_, ?_, ?_⟩⟩
    · simp [State.Stops, State.waits, ha, hb, State.stuck, Regs.hush]
    · simp [Regs.place, hf, FramePhase.code, Regs.hush]
    · rw [goOn_of_legal s hl, hf, hv, goOn_of_legal _ (by exact hq)]
      dsimp only
      rw [State.frameData_done s.quiet _ b ha, State.afterFrame_of_release _ _ rfl]
      rfl

/-- `F_RELEASE`: the next frame starts, RDMEAS tests its bytes, or the operation responds (R116). -/
theorem goOn_byEdge_of_release (hq : s.regs.seq.runsFrame = true) (hf : s.regs.fe = .release) :
    s.ByEdge cmd (goOn s) := by
  have hb := SeqState.ne_of_runsFrame hq
  have hl : pcLegal s.regs.seq s.regs.fe = true := by rw [hf]; exact hq
  have hv : s.envNext = s.env := by simp [State.envNext, Regs.xferReq, hf, hb]
  have hw : s.waits = false := by simp [State.waits, Regs.xferReq, hf]
  have hg : goOn s = .next (afterRelease s.quiet) := by rw [goOn_of_legal s hl, hf]
  have hedge : edge (s.inputs cmd) s.regs = s.regs.edgeRelease := by simp [edge, State.inputs, hf]
  have ofEdge : ∀ {r : Regs} {ev : List Event}, s.regs.edgeRelease = some (r, ev) →
      s.afterEdge cmd = some { regs := r, env := s.env, trace := s.trace ++ ev } := fun he => by
    rw [State.afterEdge_of_edge hb.1 (hedge.trans he), hv]
  have respond : ∀ {st : Status} {d : RspData}, s.regs.edgeRelease = some (s.regs.edgeRespond st d) →
      afterRelease s.quiet = s.quiet.respond st d → s.ByEdge cmd (goOn s) := fun he ho =>
    State.byEdge_of_respond cmd (t := s.quiet) (ofEdge he) (hg.trans (congrArg _ ho))
  have start : ∀ (q : SeqState) {k : State → State}, q.runsFrame = true →
      s.regs.seq.code.toNat < q.code.toNat → s.regs.edgeRelease = some (s.regs.edgeStart q) →
      afterRelease s.quiet =
        (s.quiet.frame q (s.quiet.start q).regs.abyte (s.quiet.start q).regs.dbyte).afterFrame k →
      (∀ t : State, t.regs.seq = q → k t = afterRelease t) → s.ByEdge cmd (goOn s) := fun q _ hr hp he ho hk =>
    State.byEdge_of_start (t := s.quiet) (ofEdge he) hw (Regs.place_lt_of_seq hp) hr rfl hk
      (hg.trans (congrArg _ ho))
  cases h : s.regs.seq <;> simp only [h, SeqState.runsFrame, reduceCtorEq] at hq
  case rdreg | wrreg | initLL | hasflt =>
    exact respond (by simp [Regs.edgeRelease, h]; rfl) (by simp [afterRelease, h]; rfl)
  case initCW =>
    exact start .initCR rfl (by rw [h]; decide) (by simp [Regs.edgeRelease, h]) (by simp [afterRelease, h]; rfl)
      (fun t ht => by simp [afterRelease, ht])
  case initHM =>
    exact start .initHL rfl (by rw [h]; decide) (by simp [Regs.edgeRelease, h]) (by simp [afterRelease, h]; rfl)
      (fun t ht => by simp [afterRelease, ht])
  case initHL =>
    exact start .initLM rfl (by rw [h]; decide) (by simp [Regs.edgeRelease, h]) (by simp [afterRelease, h]; rfl)
      (fun t ht => by simp [afterRelease, ht])
  case initLM =>
    exact start .initLL rfl (by rw [h]; decide) (by simp [Regs.edgeRelease, h]) (by simp [afterRelease, h]; rfl)
      (fun t ht => by simp [afterRelease, ht])
  case initCR =>
    by_cases hx : s.regs.rx = 0x80#8
    · exact start .initHM rfl (by rw [h]; decide) (by simp [Regs.edgeRelease, h, hx])
        (by simp [afterRelease, h, afterInitCR_eq, hx]; rfl) (fun t ht => by simp [afterRelease, ht])
    · exact respond (by simp [Regs.edgeRelease, h, hx]; rfl) (by simp [afterRelease, h, afterInitCR_eq, hx])
  case measLsb =>
    refine State.byEdge_of_start (q := .measMsb) (t := s.quiet.setLsb s.regs.rx) (k := afterMeasMsb)
      (ofEdge (by simp [Regs.edgeRelease, h]; rfl)) hw ?_ rfl rfl (fun t ht => by simp [afterRelease, ht]) ?_
    · exact Regs.place_lt_of_seq (by simp [h, SeqState.code])
    · exact hg.trans (by simp [afterRelease, h]; rfl)
  case measMsb =>
    refine ⟨(s.quiet.setMsb s.regs.rx).setPc .measFlt .idle, ?_, .inr ⟨?_, ?_, ?_⟩⟩
    · rw [ofEdge (ev := []) (by simp [Regs.edgeRelease, h]; rfl), List.append_nil]
      rfl
    · simp [State.Stops, hw, State.stuck]
    · exact Regs.place_lt_of_seq (by simp [h, SeqState.code])
    · rw [hg, goOn_of_legal _ rfl]
      simp [afterRelease, h]
      rfl

theorem kindRecognised_eq_false_iff (k : Nibble) : kindRecognised k = false ↔ k ≠ 0x0#4 ∧ k ≠ 0x1#4 := by
  rw [← Bool.not_eq_true, kindRecognised_iff, not_or]

/-- Decode and Return of a kind R119 excludes answers nothing. -/
theorem decodeReturn_of_unrecognised (s : State) (h : kindRecognised s.regs.kind = false) : decodeReturn s = s := by
  simp [decodeReturn, (kindRecognised_eq_false_iff _).1 h]

/-- Outside a frame an operation goes on with the check of its state (R117 to R119). -/
theorem goOn_of_idle (hq : s.regs.seq.runsFrame = false) (hf : s.regs.fe = .idle) :
    goOn s = runMeasureState s.quiet := by
  rw [goOn_of_legal s (by rw [hf]; simp [pcLegal, hq]), hf]

/-- The edge of a busy block outside a frame. -/
theorem State.afterEdge_of_edgeOutside (hb : s.regs.seq ≠ .idle) (hf : s.regs.fe = .idle) {r : Regs} {ev : List Event}
    (he : s.regs.edgeOutside (s.inputs cmd) = some (r, ev)) :
    s.afterEdge cmd = some { regs := r, env := s.envNext, trace := s.trace ++ ev } :=
  State.afterEdge_of_edge hb (by simpa [edge, State.inputs, hf] using he)

/-- `S_MEAS_CHK`: the data-ready sample ends the operation or starts the first frame of RDMEAS (R117). -/
theorem goOn_byEdge_of_measChk (h : s.regs.seq = .measChk) (hf : s.regs.fe = .idle) : s.ByEdge cmd (goOn s) := by
  have hv : s.envNext = s.env.popLevel := by simp [State.envNext, Regs.xferReq, hf, h]
  have hw : s.waits = false := by simp [State.waits, Regs.xferReq, hf]
  have hg : goOn s = .next (checkReady s.quiet) := by
    rw [goOn_of_idle (by rw [h]; rfl) hf, runMeasureState_measChk s.quiet h]
  by_cases hd : s.env.levelAt 0 = 1#1
  · refine State.byEdge_of_respond cmd (t := (s.quiet.setEnv s.env.popLevel).log (.d 1#1)) (st := .notReady)
      (d := 0#16) ?_ ?_
    · rw [State.afterEdge_of_edgeOutside cmd (by simp [h]) hf
        (by simp [Regs.edgeOutside, h, State.inputs, hd]; exact ⟨rfl, rfl⟩), hv]
      simp [State.respond, State.log, State.setEnv, Regs.edgeRespond, State.quiet]
    · rw [hg, checkReady_of_not_ready s.quiet hd]
      rfl
  · have hd0 := level_zero_of_ne_one hd
    refine State.byEdge_of_start (q := .measLsb) (t := (s.quiet.setEnv s.env.popLevel).log (.d 0#1)) (k := afterMeasLsb)
      ?_ hw (Regs.place_lt_of_seq (by simp [h, SeqState.code])) rfl rfl (fun t ht => by simp [afterRelease, ht]) ?_
    · rw [State.afterEdge_of_edgeOutside cmd (by simp [h]) hf
        (by simp [Regs.edgeOutside, h, State.inputs, hd0]; exact ⟨rfl, rfl⟩), hv]
      simp [State.start, State.log, State.setEnv, Regs.edgeStart, State.quiet, State.setPc, Regs.hush]
    · rw [hg, checkReady_of_ready s.quiet hd0]
      rfl

/-- `S_MEAS_FLT`: the fault flag ends the operation, or Decode and Return follows (R118). With a kind R119 excludes the
step ends there, with nothing answered. -/
theorem goOn_byEdge_of_measFlt (h : s.regs.seq = .measFlt) (hf : s.regs.fe = .idle) : s.ByEdge cmd (goOn s) := by
  have hv : s.envNext = s.env := by simp [State.envNext, Regs.xferReq, hf, h]
  have hw : s.waits = false := by simp [State.waits, Regs.xferReq, hf]
  have hg : goOn s = .next (checkFault s.quiet) := by
    rw [goOn_of_idle (by rw [h]; rfl) hf, runMeasureState_measFlt s.quiet h]
  by_cases hd : faultBit s.regs.lsb = 1#1
  · refine State.byEdge_of_respond cmd (t := s.quiet) (st := .fault) (d := 0#16) ?_ ?_
    · rw [State.afterEdge_of_edgeOutside cmd (by simp [h]) hf (by simp [Regs.edgeOutside, h, hd]; rfl), hv]
      rfl
    · rw [hg]
      simp [checkFault, hd, State.raise]
  · have he : s.afterEdge cmd = some (s.quiet.setPc .measDec .idle) := by
      rw [State.afterEdge_of_edgeOutside cmd (ev := []) (by simp [h]) hf (by simp [Regs.edgeOutside, h, hd]; rfl), hv,
        List.append_nil]
      simp [State.setPc, State.quiet, Regs.hush, hf]
    have ho : goOn s = .next (decodeReturn (s.quiet.setPc .measDec .idle)) := by
      rw [hg]
      simp [checkFault, hd]
    cases hk : kindRecognised s.regs.kind with
    | true =>
      refine ⟨_, he, .inr ⟨?_, Regs.place_lt_of_seq (by simp [h, SeqState.code]), ?_⟩⟩
      · simp [State.Stops, hw, State.stuck, hk]
      · rw [ho, goOn_of_legal _ rfl]
        exact (runMeasureState_measDec (s.quiet.setPc .measDec .idle) rfl hk).symm
    | false =>
      refine ⟨_, he, .inl ⟨.inr (.inr (by simp [State.stuck, hk])), ho.trans (congrArg _ ?_)⟩⟩
      exact decodeReturn_of_unrecognised _ hk

/-- `S_MEAS_DEC`: the raw code or the temperature is the response (R119). -/
theorem goOn_byEdge_of_measDec (h : s.regs.seq = .measDec) (hf : s.regs.fe = .idle)
    (hk : kindRecognised s.regs.kind = true) : s.ByEdge cmd (goOn s) := by
  have hv : s.envNext = s.env := by simp [State.envNext, Regs.xferReq, hf, h]
  have hg : goOn s = .next (decodeReturn s.quiet) := by
    rw [goOn_of_idle (by rw [h]; rfl) hf, runMeasureState_measDec s.quiet h hk]
  have respond : ∀ {d : RspData}, s.regs.edgeOutside (s.inputs cmd) = some (s.regs.edgeRespond .ok d) →
      decodeReturn s.quiet = s.quiet.respond .ok d → s.ByEdge cmd (goOn s) := fun he ho => by
    refine State.byEdge_of_respond cmd (t := s.quiet) ?_ (hg.trans (congrArg _ ho))
    rw [State.afterEdge_of_edgeOutside cmd (by simp [h]) hf he, hv]
    rfl
  obtain hk | hk := (kindRecognised_iff _).1 hk
  · exact respond (by simp [Regs.edgeOutside, h, hk]; rfl) (by simp [decodeReturn, hk])
  · exact respond (by simp [Regs.edgeOutside, h, hk]; rfl) (by simp [decodeReturn, hk])

/-- Going on is going on by the next edge, except that a state with no further edge has no step (R121). -/
theorem goOn_byEdge (hb : s.regs.seq ≠ .idle) (hl : pcLegal s.regs.seq s.regs.fe = true) (hs : s.stuck = false) :
    s.ByEdge cmd (goOn s) := by
  cases hf : s.regs.fe <;> simp only [hf, pcLegal, Bool.not_eq_true'] at hl
  case idle =>
    cases h : s.regs.seq <;> simp only [h, SeqState.runsFrame, reduceCtorEq, ne_eq, not_true_eq_false] at hl hb
    case measChk => exact goOn_byEdge_of_measChk cmd h hf
    case measFlt => exact goOn_byEdge_of_measFlt cmd h hf
    case measDec => exact goOn_byEdge_of_measDec cmd h hf (by simpa [State.stuck, h] using hs)
  case select => exact goOn_byEdge_of_select cmd hl hf
  case addr => exact goOn_byEdge_of_addr cmd hl hf
  case data => exact goOn_byEdge_of_data cmd hl hf
  case release => exact goOn_byEdge_of_release cmd hl hf

end

end Sys2Proof.Machine
end

section
/-! The acceptance of a command as an edge, and the step as a run of edges. -/

namespace Sys2Proof.Machine

/-- The state in which the operation of the command `w` begins (R112). -/
def State.accepted (s : State) (w : CmdWord) : State :=
  (s.latch (cmdOp w) (cmdKind w) (cmdAddr w) (cmdWdata w)).quiet

@[simp] theorem State.accepted_regs (s : State) (w : CmdWord) :
    (s.accepted w).regs =
      { s.regs with op := cmdOp w, kind := cmdKind w, addr := cmdAddr w, wdata := cmdWdata w, rspValid := false } := rfl
@[simp] theorem State.accepted_env (s : State) (w : CmdWord) : (s.accepted w).env = s.env := rfl
@[simp] theorem State.accepted_trace (s : State) (w : CmdWord) : (s.accepted w).trace = [] := rfl

section
variable {s : State} {w : CmdWord}

/-- The edge that accepts a command begins a new trace (R112). -/
theorem State.afterEdge_of_accept (hi : s.Idle) {r : Regs} {ev : List Event} (he : s.regs.edgeAccept w = (r, ev)) :
    s.afterEdge (some w) = some { regs := r, env := s.env, trace := ev } := by
  simp [State.afterEdge, State.traceBegun, edge, State.inputs, Regs.edgeOutside, State.envNext,
    Regs.xferReq, hi.1, hi.2, he]

theorem runCommand_of_decode {i : Instr} (h : decodeCmd w = .ok i) : runCommand w s = exec i s := by
  simp [runCommand, decode, h]

/-- RDMEAS and its two pseudo-instructions are one meaning (R58, R90). -/
theorem runCommand_of_rdmeas (hi : s.Idle) (h : cmdOp w = 0x5#4) :
    runCommand w s = .next (startMeasurement (s.accepted w)) := by
  have hd : decodeCmd w =
      if cmdKind w = 0x0#4 then .ok (.rdraw (cmdIgn w) (cmdAddr w) (cmdWdata w))
      else if cmdKind w = 0x1#4 then .ok (.rdtemp (cmdIgn w) (cmdAddr w) (cmdWdata w))
      else .ok (.rdmeas (cmdKind w) (cmdIgn w) (cmdAddr w) (cmdWdata w)) := by
    simp [decodeCmd, h, Config.opRdreg, Config.opWrreg, Config.opInit, Config.opHasflt]
  split_ifs at hd with h0 h1
  · rw [runCommand_of_decode hd, execRdraw_of_idle _ _ _ s hi, ← h0, ← h]
    rfl
  · rw [runCommand_of_decode hd, execRdtemp_of_idle _ _ _ s hi, ← h1, ← h]
    rfl
  · rw [runCommand_of_decode hd, execRdmeas_of_idle _ _ _ _ s hi, ← h]
    rfl

/-- A reserved operation code is answered at once (R56). -/
theorem runCommand_of_reserved (hi : s.Idle) {e : DecodeError} (h : decodeCmd w = .error e) :
    runCommand w s = .next ((s.accepted w).respond .badOp 0x0000#16) := by
  have hr : runCommand w s = badOp w s := by simp [runCommand, decode, h]
  exact hr.trans (accept_of_idle _ _ _ _ (fun s => s.raise .badOp) s hi)

/-- The start of an operation comes after the idle place. -/
theorem State.place_lt_of_busy (hi : s.Idle) {r : Regs} (h : r.seq ≠ .idle) : s.regs.place < r.place :=
  Regs.place_lt_of_seq (by rw [hi.1]; exact SeqState.code_pos h)

/-- The edge that accepts a command to which the block responds at once is the last of the step. -/
theorem State.byEdge_of_accept_respond (hi : s.Idle) {st : Status}
    (he : s.regs.edgeAccept w = (s.accepted w).regs.edgeRespond st 0x0000#16)
    (ho : runCommand w s = .next ((s.accepted w).respond st 0x0000#16)) : s.ByEdge (some w) (runCommand w s) :=
  State.byEdge_of_respond (some w) (t := s.accepted w) (State.afterEdge_of_accept hi he) ho

/-- A measurement of a recognised kind is accepted by the edge to `S_MEAS_CHK`, of another kind by a response (R112). -/
theorem runCommand_byEdge_of_rdmeas (hi : s.Idle) (h : cmdOp w = 0x5#4) : s.ByEdge (some w) (runCommand w s) := by
  have hrun := runCommand_of_rdmeas hi h
  cases hk : kindRecognised (cmdKind w) with
  | true =>
    rw [startMeasurement_of_recognised _ hk] at hrun
    refine ⟨(s.accepted w).setPc .measChk .idle, ?_, .inr ⟨?_, State.place_lt_of_busy hi (by simp), ?_⟩⟩
    · rw [State.afterEdge_of_accept (ev := []) hi (by simp [Regs.edgeAccept, h, (kindRecognised_iff _).1 hk]; rfl)]
      simp [State.setPc, State.accepted, State.quiet, State.latch, Regs.hush, h, hi.2]
    · simp [State.Stops, State.waits, Regs.xferReq, hi.2, State.stuck]
    · rw [hrun, goOn_of_legal _ rfl]
      exact (runMeasureState_measChk _ rfl).symm
  | false =>
    refine State.byEdge_of_accept_respond hi (st := .invalidKind) ?_ ?_
    · simp [Regs.edgeAccept, h, (kindRecognised_eq_false_iff _).1 hk]
      rfl
    · rw [hrun, startMeasurement_of_unrecognised _ hk]

/-- The idle block takes a command by one edge, and goes on with the operation it names (R112). -/
theorem runCommand_byEdge (hi : s.Idle) : s.ByEdge (some w) (runCommand w s) := by
  have start : ∀ (q : SeqState) (k : State → State), q.runsFrame = true →
      s.regs.edgeAccept w = (s.accepted w).regs.edgeStart q →
      (∀ t : State, t.regs.seq = q → k t = afterRelease t) →
      runCommand w s = .next (((s.accepted w).frame q
        ((s.accepted w).start q).regs.abyte ((s.accepted w).start q).regs.dbyte).afterFrame k) →
      s.ByEdge (some w) (runCommand w s) := fun q k hq he hk ho =>
    State.byEdge_of_start (t := s.accepted w) (State.afterEdge_of_accept hi he)
      (by simp [State.waits, Regs.xferReq, hi.2]) (State.place_lt_of_busy hi (SeqState.ne_of_runsFrame hq).1)
      hq rfl hk ho
  by_cases h1 : cmdOp w = 0x1#4
  · have hd : decodeCmd w = _ := if_pos h1
    exact start .rdreg finishRdreg rfl (by simp [Regs.edgeAccept, h1]; rfl) (fun t ht => by simp [afterRelease, ht])
      (by rw [runCommand_of_decode hd, execRdreg_of_idle _ _ _ _ s hi, ← h1]; rfl)
  by_cases h2 : cmdOp w = 0x2#4
  · have hd : decodeCmd w = _ := (if_neg h1).trans (if_pos h2)
    exact start .wrreg finishWrreg rfl (by simp [Regs.edgeAccept, h2]; rfl) (fun t ht => by simp [afterRelease, ht])
      (by rw [runCommand_of_decode hd, execWrreg_of_idle _ _ _ _ s hi, ← h2]; rfl)
  by_cases h3 : cmdOp w = 0x3#4
  · have hd : decodeCmd w = _ := (if_neg h1).trans ((if_neg h2).trans (if_pos h3))
    exact start .initCW afterInitCW rfl (by simp [Regs.edgeAccept, h3]; rfl) (fun t ht => by simp [afterRelease, ht])
      (by rw [runCommand_of_decode hd, execInit_of_idle _ _ _ _ s hi, ← h3]; rfl)
  by_cases h4 : cmdOp w = 0x4#4
  · have hd : decodeCmd w = _ := (if_neg h1).trans ((if_neg h2).trans ((if_neg h3).trans (if_pos h4)))
    exact start .hasflt finishHasflt rfl (by simp [Regs.edgeAccept, h4]; rfl) (fun t ht => by simp [afterRelease, ht])
      (by rw [runCommand_of_decode hd, execHasflt_of_idle _ _ _ _ s hi, ← h4]; rfl)
  by_cases h5 : cmdOp w = 0x5#4
  · exact runCommand_byEdge_of_rdmeas hi h5
  · exact State.byEdge_of_accept_respond hi (by simp [Regs.edgeAccept, h1, h2, h3, h4, h5]; rfl)
      (runCommand_of_reserved (e := .reservedOp (cmdOp w)) hi (by simp [decodeCmd, h1, h2, h3, h4, h5]))

end

/-- The edge of the idle block with no command only clears `rsp_valid` (R112, R120). -/
theorem State.afterEdge_of_no_command {s : State} (hi : s.Idle) : s.afterEdge none = some s.quiet := by
  simp [State.afterEdge, State.traceBegun, edge, State.inputs, Regs.edgeOutside, State.envNext, Regs.xferReq, hi.1, hi.2,
    State.quiet, Regs.hush]

/-- At `S_IDLE` the one pair R16 allows is the idle one. -/
theorem State.idle_of_legal {s : State} (hl : pcLegal s.regs.seq s.regs.fe = true)
    (hq : s.regs.seq = .idle) : s.Idle := by
  rw [hq] at hl
  cases hf : s.regs.fe <;> simp [hf, pcLegal, SeqState.runsFrame] at hl
  exact ⟨hq, hf⟩

/-- The block does what its next edge does, and goes on from there (R110 to R121). -/
theorem runBlock_byEdge (cmd : Option CmdWord) {s : State} (hl : pcLegal s.regs.seq s.regs.fe = true)
    (hs : s.stuck = false) : s.ByEdge cmd (runBlock cmd s) := by
  by_cases hb : s.regs.seq = .idle
  · have hi := State.idle_of_legal hl hb
    rw [runBlock_of_idle cmd s hi]
    cases cmd with
    | some w => exact runCommand_byEdge hi
    | none => exact ⟨s.quiet, State.afterEdge_of_no_command hi, .inl ⟨.inr (.inl hb), rfl⟩⟩
  · rw [runBlock_of_busy cmd s hb]
    exact goOn_byEdge cmd hb hl hs

/-- In a state R16 excludes the block has no step (R121). -/
theorem runBlock_of_not_legal (cmd : Option CmdWord) {s : State} (hl : pcLegal s.regs.seq s.regs.fe = false) :
    runBlock cmd s = .fault .noTransition := by
  by_cases hb : s.regs.seq = .idle
  · have hf : s.regs.fe ≠ .idle := by rintro hf; rw [hb, hf] at hl; cases hl
    simp only [runBlock, hb]
  · rw [runBlock_of_busy cmd s hb, goOn_of_not_legal s hl]

/-- Decode and Return of a kind R119 excludes has neither an edge nor a step. -/
theorem State.no_step_of_stuck (cmd : Option CmdWord) {s : State} (hl : pcLegal s.regs.seq s.regs.fe = true)
    (hs : s.stuck = true) : s.afterEdge cmd = none ∧ runBlock cmd s = .fault .noTransition := by
  obtain ⟨hq, hk⟩ : s.regs.seq = .measDec ∧ kindRecognised s.regs.kind = false := by simpa [State.stuck] using hs
  have hf : s.regs.fe = .idle := by
    rw [hq] at hl
    cases hf : s.regs.fe <;> simp [hf, pcLegal, SeqState.runsFrame] at hl
    rfl
  constructor
  · simp [State.afterEdge, edge, State.inputs, hf, Regs.edgeOutside, hq, (kindRecognised_eq_false_iff _).1 hk]
  · rw [runBlock_of_busy cmd s (by simp [hq]), goOn_of_legal s hl, hf]
    simp [runMeasureState, hq, hk]

/-! ### The step as a run of edges -/

/-- What an edge with no reset can do, of the state. -/
theorem State.afterEdge_cases {cmd : Option CmdWord} {s t : State} (h : s.afterEdge cmd = some t) :
    ∃ ev, t.trace = s.traceBegun cmd ++ ev ∧
      (Regs.GoesOn (s.inputs cmd) s.regs t.regs ev ∨ s.regs.Responds t.regs ev) := by
  obtain ⟨⟨r, ev⟩, he, rfl⟩ := Option.map_eq_some_iff.1 h
  exact ⟨ev, rfl, edge_cases rfl he⟩

/-- Every edge leads to a pair R16 allows. -/
theorem State.legal_of_afterEdge {cmd : Option CmdWord} {s t : State} (h : s.afterEdge cmd = some t) :
    pcLegal t.regs.seq t.regs.fe = true := by
  obtain ⟨ev, -, hg | hr⟩ := State.afterEdge_cases h
  · exact hg.legal
  · rw [hr.idle.1, hr.idle.2]; rfl

/-- From a state R16 allows, other than Decode and Return of a kind R119 excludes, the block has a step, which is a run
of edges. -/
theorem runBlock_goes {cmd : Option CmdWord} {s : State} (hl : pcLegal s.regs.seq s.regs.fe = true)
    (hs : s.stuck = false) : ∃ t, runBlock cmd s = .next t ∧ State.Goes cmd s t := by
  obtain ⟨t, he, ⟨hst, ho⟩ | ⟨hst, hp, ho⟩⟩ := runBlock_byEdge cmd hl hs
  · exact ⟨t, ho, .last he hst⟩
  · obtain ⟨-, hb, ht⟩ : s.waits = false ∧ t.regs.seq ≠ .idle ∧ t.stuck = false := by
      simpa [State.Stops] using hst
    obtain ⟨t', h, hg⟩ := runBlock_goes (cmd := cmd) (State.legal_of_afterEdge he) ht
    exact ⟨t', by rw [ho, ← runBlock_of_busy cmd t hb, h], .more he hst hg⟩
termination_by 75 - s.regs.place
decreasing_by
  have := t.regs.place_lt
  omega

/-- The block's step is a run of edges. -/
theorem goes_of_runBlock {cmd : Option CmdWord} {s s' : State} (hl : pcLegal s.regs.seq s.regs.fe = true)
    (h : runBlock cmd s = .next s') : State.Goes cmd s s' := by
  cases hs : s.stuck with
  | true => cases (State.no_step_of_stuck cmd hl hs).2.symm.trans h
  | false =>
    obtain ⟨t, ht, hg⟩ := runBlock_goes (cmd := cmd) hl hs
    cases ht.symm.trans h
    exact hg

/-- A run of edges is the block's step. -/
theorem runBlock_of_goes {cmd : Option CmdWord} {s s' : State} (hl : pcLegal s.regs.seq s.regs.fe = true)
    (h : State.Goes cmd s s') : runBlock cmd s = .next s' := by
  have byEdge : ∀ {s t : State}, pcLegal s.regs.seq s.regs.fe = true → s.afterEdge cmd = some t →
      s.ByEdge cmd (runBlock cmd s) := fun {s _} hl he =>
    runBlock_byEdge cmd hl (by
      cases hs : s.stuck with
      | false => rfl
      | true => rw [(State.no_step_of_stuck cmd hl hs).1] at he; cases he)
  induction h with
  | last he hst =>
    obtain ⟨t, he', ⟨-, ho⟩ | ⟨hn, -⟩⟩ := byEdge hl he <;> cases he.symm.trans he'
    · exact ho
    · exact absurd hst hn
  | @more s t s' he hn _ ih =>
    obtain ⟨t, he', ⟨hst, -⟩ | ⟨-, -, ho⟩⟩ := byEdge hl he <;> cases he.symm.trans he'
    · exact absurd hst hn
    · have hb : t.regs.seq ≠ .idle := fun hq => hn (.inr (.inl hq))
      rw [ho, ← runBlock_of_busy cmd t hb, ih (State.legal_of_afterEdge he)]

/-- A step answers a next state or the fault of a state R121 gives no step. -/
theorem step_next_or_fault (s : State) : (∃ t, step s = .next t) ∨ step s = .fault .noTransition := by
  rw [step_eq]
  generalize s.setEnv s.env.popCaller = t
  split_ifs
  · exact .inl ⟨_, rfl⟩
  · cases hl : pcLegal t.regs.seq t.regs.fe with
    | false => exact .inr (runBlock_of_not_legal _ hl)
    | true =>
      cases hs : t.stuck with
      | false =>
        obtain ⟨t', h, -⟩ := runBlock_goes hl hs
        exact .inl ⟨t', h⟩
      | true => exact .inr (State.no_step_of_stuck _ hl hs).2

/-- A step with no reset, from a state R16 allows, is a run of edges; from another there is none. -/
theorem goes_of_step {s t : State} (hr : (s.env.callerAt 0).rst = false) (h : step s = .next t) :
    pcLegal s.regs.seq s.regs.fe = true ∧
      State.Goes (s.env.callerAt 0).cmd (s.setEnv s.env.popCaller) t := by
  rw [step_eq, hr, if_neg (by simp)] at h
  cases hl : pcLegal s.regs.seq s.regs.fe with
  | true => exact ⟨rfl, goes_of_runBlock (s := s.setEnv s.env.popCaller) hl h⟩
  | false => cases (runBlock_of_not_legal _ (s := s.setEnv s.env.popCaller) hl).symm.trans h

end Sys2Proof.Machine
end

section
/-! What every step keeps: the invariant, and the response until the next one. -/

namespace Sys2Proof.Machine

/-! ### The invariant -/

/-- The invariant does not speak of the environment. -/
theorem State.Inv.setEnv {s : State} (h : s.Inv) (e : Env) : (s.setEnv e).Inv :=
  ⟨h.pcLegal, h.kindRecognised, h.validIdle, h.dataZero, h.validLast, h.framed⟩

theorem State.Inv.quiet {s : State} (h : s.Inv) : s.quiet.Inv where
  pcLegal := h.pcLegal
  kindRecognised := h.kindRecognised
  validIdle := fun hv => by cases hv
  dataZero := h.dataZero
  validLast := fun hv => by cases hv
  framed := h.framed

/-- Before an edge at which something can happen the trace stands where the frame phase says. -/
theorem State.Inv.run_traceBegun {s : State} {cmd : Option CmdWord} (h : s.Inv)
    (hc : s.regs.seq = .idle → cmd.isSome = true) :
    Bracket.run .outside (s.traceBegun cmd) = some s.regs.fe.bracket := by
  by_cases hq : s.regs.seq = .idle
  · rw [(State.idle_of_legal h.pcLegal hq).2]
    simp [State.traceBegun, hq, hc hq, FramePhase.bracket]
  · simpa [State.traceBegun, traceAgrees, hq] using h.framed

/-- An edge at which no operation ends keeps the invariant. -/
theorem State.Inv.of_goesOn {s t : State} {cmd : Option CmdWord} {ev : List Event} (h : s.Inv)
    (hc : s.regs.seq = .idle → cmd.isSome = true) (ht : t.trace = s.traceBegun cmd ++ ev)
    (hg : Regs.GoesOn (s.inputs cmd) s.regs t.regs ev) : t.Inv where
  pcLegal := hg.legal
  kindRecognised hm := by
    obtain hk | ⟨hs, hk⟩ := hg.kind hm
    · exact hk
    · rw [hk]; exact h.kindRecognised hs
  validIdle hv := by rw [hg.valid] at hv; cases hv
  dataZero := by rw [hg.held.1, hg.held.2]; exact h.dataZero
  validLast hv := by rw [hg.valid] at hv; cases hv
  framed := by
    have hb : t.regs.seq ≠ .idle := fun hq => by
      obtain ⟨hs, hv⟩ := hg.idle hq
      cases (hc hs).symm.trans hv
    simp [traceAgrees, hb, ht, Bracket.run_append, h.run_traceBegun hc, hg.framed]

/-- An edge at which an operation ends leads to the invariant. -/
theorem State.Inv.of_responds {s t : State} {cmd : Option CmdWord} {ev : List Event} (h : s.Inv)
    (hc : s.regs.seq = .idle → cmd.isSome = true) (ht : t.trace = s.traceBegun cmd ++ ev)
    (hr : s.regs.Responds t.regs ev) : t.Inv where
  pcLegal := by rw [hr.idle.1, hr.idle.2]; rfl
  kindRecognised hm := by rw [hr.idle.1] at hm; cases hm
  validIdle _ := hr.idle.1
  dataZero := hr.dataZero
  validLast _ := by rw [ht, List.getLast?_append, hr.last]; rfl
  framed := by simp [traceAgrees, hr.idle.1, ht, Bracket.run_append, h.run_traceBegun hc, hr.framed]

/-- Every edge keeps the invariant. -/
theorem State.Inv.afterEdge {s t : State} {cmd : Option CmdWord} (h : s.Inv) (he : s.afterEdge cmd = some t) : t.Inv := by
  by_cases hc : s.regs.seq = .idle → cmd.isSome = true
  · obtain ⟨ev, ht, hg | hr⟩ := State.afterEdge_cases he
    · exact h.of_goesOn hc ht hg
    · exact h.of_responds hc ht hr
  · obtain ⟨hq, hn⟩ := Classical.not_imp.1 hc
    obtain rfl : cmd = none := by simpa using hn
    rw [State.afterEdge_of_no_command (State.idle_of_legal h.pcLegal hq)] at he
    cases he
    exact h.quiet

/-- A run of edges keeps the invariant. -/
theorem State.Inv.goes {s t : State} {cmd : Option CmdWord} (h : s.Inv) (hg : State.Goes cmd s t) : t.Inv := by
  induction hg with
  | last he _ => exact h.afterEdge he
  | more he _ _ ih => exact ih (h.afterEdge he)

/-- Settles O37: reset leads to the reset registers, and any other step is a run of edges, each of which keeps the
invariant. -/
theorem stepKeepsInv : Obligations.StepKeepsInv := by
  intro s t h hstep
  cases hr : (s.env.callerAt 0).rst with
  | true =>
    rw [step_eq, hr, if_pos rfl] at hstep
    cases hstep
    exact State.inv_of_reset rfl rfl
  | false => exact (h.setEnv _).goes (goes_of_step hr hstep).2

/-! ### The response -/

/-- A run of edges that ends with no response signalled keeps status and data. -/
theorem State.Goes.held {s t : State} {cmd : Option CmdWord} (hg : State.Goes cmd s t) (hv : t.regs.rspValid = false) :
    t.regs.rspStatus = s.regs.rspStatus ∧ t.regs.rspData = s.regs.rspData := by
  induction hg with
  | last he _ =>
    obtain ⟨ev, -, hg | hr⟩ := State.afterEdge_cases he
    · exact hg.held
    · cases hr.valid.symm.trans hv
  | more he hn _ ih =>
    obtain ⟨ev, -, hg | hr⟩ := State.afterEdge_cases he
    · rw [(ih hv).1, (ih hv).2]; exact hg.held
    · exact absurd (.inr (.inl hr.idle.1)) hn

/-- Settles O39: with no reset the step is a run of edges. -/
theorem responseHeld : Obligations.ResponseHeld :=
  fun _ _ hr hstep hv => (goes_of_step hr hstep).2.held hv

end Sys2Proof.Machine
end

section
/-! What an operation reads: two states at the same point of the same operation go on alike (R11, R55, R122). -/

namespace Sys2Proof.Machine

/-- The registers of two states at the same point of the same operation. -/
def Regs.Same (r q : Regs) : Prop := ∀ (e : Env) (tr : List Event), SameOperation ⟨r, e, tr⟩ ⟨q, e, tr⟩

theorem sameOperation_iff {s u : State} :
    SameOperation s u ↔ s.trace = u.trace ∧ s.env = u.env ∧ s.regs.Same u.regs := by
  constructor
  · exact fun h => ⟨h.trace, h.env, fun _ _ =>
      ⟨⟨rfl, h.pc, rfl, h.valid, h.response⟩, h.addr, h.wdata, h.kind, h.rx, h.lsb, h.msb⟩⟩
  · rintro ⟨ht, he, h⟩
    have h := h s.env s.trace
    exact ⟨⟨ht, h.pc, he, h.valid, h.response⟩, h.addr, h.wdata, h.kind, h.rx, h.lsb, h.msb⟩

theorem SameOperation.refl (s : State) : SameOperation s s :=
  ⟨⟨rfl, ⟨rfl, rfl⟩, rfl, rfl, fun _ => ⟨rfl, rfl⟩⟩, fun _ => rfl, fun _ => rfl, fun _ => rfl, fun _ => rfl,
    fun _ => rfl, fun _ => rfl⟩

theorem SameOperation.symm {s u : State} (h : SameOperation s u) : SameOperation u s where
  trace := h.trace.symm
  pc := ⟨h.pc.1.symm, h.pc.2.symm⟩
  env := h.env.symm
  valid := h.valid.symm
  response hq := by
    obtain ⟨hst, hd⟩ := h.response (h.pc.1.trans hq)
    exact ⟨hst.symm, hd.symm⟩
  addr hq := (h.addr (by rwa [h.pc.1])).symm
  wdata hq := (h.wdata (by rwa [h.pc.1])).symm
  kind hq := (h.kind (by rwa [h.pc.1])).symm
  rx hf := (h.rx (by rwa [h.pc.2])).symm
  lsb hq := (h.lsb (by rwa [h.pc.1])).symm
  msb hq := (h.msb (by rwa [h.pc.1])).symm

/-- The outcomes of an edge from two register files: none from both, or the same events and
registers at the same point. -/
abbrev SameEdge : Option (Regs × List Event) → Option (Regs × List Event) → Prop :=
  Option.Rel fun a b => a.1.Same b.1 ∧ a.2 = b.2

/-- A response leaves nothing to be read. -/
theorem Regs.edgeRespond_same (r q : Regs) (st : Status) (d : RspData) :
    (r.edgeRespond st d).1.Same (q.edgeRespond st d).1 := fun _ _ =>
  ⟨⟨rfl, ⟨rfl, rfl⟩, rfl, rfl, fun _ => ⟨rfl, rfl⟩⟩, by simp [Regs.edgeRespond], by simp [Regs.edgeRespond],
    by simp [Regs.edgeRespond, SeqState.measuring], by simp [Regs.edgeRespond], by simp [Regs.edgeRespond],
    by simp [Regs.edgeRespond]⟩

/-- The start of a frame of `p` leaves to be read what `p` and the states after it read. -/
theorem Regs.edgeStart_same {r q : Regs} {p : SeqState} (hp : p.runsFrame = true)
    (addr : p = .rdreg ∨ p = .wrreg → r.addr = q.addr) (wdata : p = .wrreg → r.wdata = q.wdata)
    (kind : p.measuring = true → r.kind = q.kind) (lsb : p = .measMsb → r.lsb = q.lsb) :
    (r.edgeStart p).1.Same (q.edgeStart p).1 := fun _ _ =>
  { trace := rfl, pc := ⟨rfl, rfl⟩, env := rfl, valid := rfl
    response := fun h => by cases (show p = .idle from h); cases hp
    addr := addr, wdata := wdata, kind := kind
    rx := fun h => by cases h
    lsb := fun h => by
      obtain h | h | h := h <;> cases (show p = _ from h)
      · exact lsb rfl
      · cases hp
      · cases hp
    msb := fun h => by
      obtain h | h := h <;> cases (show p = _ from h) <;> cases hp }

/-- A wait, or an idle edge, changes nothing but `rsp_valid`. -/
theorem Regs.Same.hush {r q : Regs} (h : r.Same q) : r.hush.Same q.hush := fun e tr =>
  { (h e tr) with trace := rfl, env := rfl, valid := rfl }

/-- Inside a frame the phase moves and `RX` may take a byte. -/
theorem Regs.phase_same {r q : Regs} (h : r.Same q) (hr : r.seq.runsFrame = true) {f : FramePhase} {b c : Byte}
    (hb : f = .release → b = c) :
    Regs.Same { r.hush with rx := b, fe := f } { q.hush with rx := c, fe := f } := fun e tr =>
  { trace := rfl, pc := ⟨(h e tr).pc.1, rfl⟩, env := rfl, valid := rfl
    response := fun hi => absurd hi (SeqState.ne_of_runsFrame hr).1
    addr := (h e tr).addr, wdata := (h e tr).wdata, kind := (h e tr).kind
    rx := hb
    lsb := (h e tr).lsb, msb := (h e tr).msb }

/-- Outside a frame the sequencer moves to a state of RDMEAS. -/
theorem Regs.moved_same {r q : Regs} {p : SeqState} {b c : Byte} (hp : p = .measChk ∨ p = .measFlt ∨ p = .measDec)
    (kind : r.kind = q.kind) (lsb : p ≠ .measChk → r.lsb = q.lsb) (msb : p ≠ .measChk → b = c) :
    Regs.Same { r.hush with seq := p, fe := .idle, msb := b }
      { q.hush with seq := p, fe := .idle, msb := c } := fun _ _ =>
  { trace := rfl, pc := ⟨rfl, rfl⟩, env := rfl, valid := rfl
    response := fun hi => by cases (show p = _ from hi); simp at hp
    addr := fun hi => by obtain hi | hi := hi <;> cases (show p = _ from hi) <;> simp at hp
    wdata := fun hi => by cases (show p = _ from hi); simp at hp
    kind := fun _ => kind
    rx := fun hf => by cases hf
    lsb := fun hi => lsb (by rintro rfl; simp at hi)
    msb := fun hi => msb (by rintro rfl; simp at hi) }

/-- A command is accepted alike whatever the registers of the idle block (R10, R11). -/
theorem Regs.edgeAccept_same {r q : Regs} (w : CmdWord) (hr : r.fe = .idle) (hq : q.fe = .idle) :
    SameEdge (some (r.edgeAccept w)) (some (q.edgeAccept w)) := by
  have start : ∀ {p : SeqState}, p.runsFrame = true → p ≠ .measMsb →
      (Regs.edgeStart { r with op := cmdOp w, kind := cmdKind w, addr := cmdAddr w, wdata := cmdWdata w } p).1.Same
        (Regs.edgeStart { q with op := cmdOp w, kind := cmdKind w, addr := cmdAddr w, wdata := cmdWdata w } p).1 :=
    fun hp hn => Regs.edgeStart_same hp (fun _ => rfl) (fun _ => rfl) (fun _ => rfl) (fun h => absurd h hn)
  refine .some ?_
  unfold Regs.edgeAccept
  split_ifs
  · exact ⟨start rfl (by simp), rfl⟩
  · exact ⟨start rfl (by simp), rfl⟩
  · exact ⟨start rfl (by simp), rfl⟩
  · exact ⟨start rfl (by simp), rfl⟩
  · refine ⟨?_, rfl⟩
    have h := Regs.moved_same (p := .measChk) (b := r.msb) (c := q.msb)
      (r := { r with op := cmdOp w, kind := cmdKind w, addr := cmdAddr w, wdata := cmdWdata w })
      (q := { q with op := cmdOp w, kind := cmdKind w, addr := cmdAddr w, wdata := cmdWdata w })
      (.inl rfl) rfl (fun h => absurd rfl h) (fun h => absurd rfl h)
    simpa [Regs.hush, hr, hq] using h
  · exact ⟨Regs.edgeRespond_same _ _ _ _, rfl⟩
  · exact ⟨Regs.edgeRespond_same _ _ _ _, rfl⟩

/-- The edge that ends `F_RELEASE` reads `RX`, and from the last frame of RDMEAS on the bytes before it. -/
theorem Regs.edgeRelease_same {r q : Regs} (h : r.Same q) (hf : r.fe = .release) :
    SameEdge r.edgeRelease q.edgeRelease := by
  have hs := h State.reset.env []
  have hseq : q.seq = r.seq := hs.pc.1.symm
  have hrx : q.rx = r.rx := (hs.rx hf).symm
  have start : ∀ {p : SeqState} {l m : Regs}, p.runsFrame = true → p ≠ .rdreg ∧ p ≠ .wrreg →
      (p.measuring = true → l.kind = m.kind) → (p = .measMsb → l.lsb = m.lsb) →
      SameEdge (some (l.edgeStart p)) (some (m.edgeStart p)) := fun hp hn hk hl =>
    .some ⟨Regs.edgeStart_same hp (fun h => by simp [hn] at h) (fun h => absurd h hn.2) hk hl, rfl⟩
  have respond : ∀ (st : Status) (d : RspData), SameEdge (some (r.edgeRespond st d)) (some (q.edgeRespond st d)) :=
    fun st d => .some ⟨Regs.edgeRespond_same r q st d, rfl⟩
  cases hq : r.seq <;> simp only [Regs.edgeRelease, hseq, hq, hrx]
  case rdreg | wrreg | initLL | hasflt => exact respond _ _
  case initCW | initHM | initHL | initLM =>
    exact start rfl (by simp) (fun h => by cases h) (fun h => by cases h)
  case initCR =>
    split_ifs
    · exact start rfl (by simp) (fun h => by cases h) (fun h => by cases h)
    · exact respond _ _
  case measLsb => exact start rfl (by simp) (fun _ => hs.kind (by simp [hq, SeqState.measuring])) (fun _ => rfl)
  case measMsb =>
    exact .some ⟨Regs.moved_same (.inr (.inl rfl)) (hs.kind (by simp [hq, SeqState.measuring]))
      (fun _ => hs.lsb (by simp [hq])) (fun _ => rfl), rfl⟩
  case idle | measChk | measFlt | measDec => exact .none

/-- The edge of a state outside any frame reads the kind and the bytes of RDMEAS, in the states that belong to it. -/
theorem Regs.edgeOutside_same {inp : Inputs} {r q : Regs} (h : r.Same q) (hf : r.fe = .idle) :
    SameEdge (r.edgeOutside inp) (q.edgeOutside inp) := by
  have hs := h State.reset.env []
  have hseq : q.seq = r.seq := hs.pc.1.symm
  have hfq : q.fe = .idle := hs.pc.2.symm.trans hf
  have respond : ∀ (st : Status) (d : RspData), SameEdge (some (r.edgeRespond st d)) (some (q.edgeRespond st d)) :=
    fun st d => .some ⟨Regs.edgeRespond_same r q st d, rfl⟩
  cases hq : r.seq <;> simp only [Regs.edgeOutside, hseq, hq]
  case idle =>
    split_ifs
    · exact Regs.edgeAccept_same inp.cmd hf hfq
    · exact .some ⟨h.hush, rfl⟩
  case measChk =>
    split_ifs
    · exact .some ⟨Regs.edgeRespond_same r q _ _, rfl⟩
    · exact .some ⟨Regs.edgeStart_same rfl (by simp) (by simp) (fun _ => hs.kind (by simp [hq, SeqState.measuring]))
        (by simp), rfl⟩
  case measFlt =>
    rw [show q.lsb = r.lsb from (hs.lsb (by simp [hq])).symm]
    split_ifs
    · exact respond _ _
    · have hm := Regs.moved_same (p := .measDec) (.inr (.inr rfl)) (hs.kind (by simp [hq, SeqState.measuring]))
        (fun _ => hs.lsb (by simp [hq])) (fun _ => hs.msb (by simp [hq]))
      exact .some ⟨by simpa [Regs.hush, hf, hfq] using hm, rfl⟩
  case measDec =>
    rw [show q.lsb = r.lsb from (hs.lsb (by simp [hq])).symm, show q.msb = r.msb from (hs.msb (by simp [hq])).symm,
      show q.kind = r.kind from (hs.kind (by simp [hq, SeqState.measuring])).symm]
    split_ifs
    · exact respond _ _
    · exact respond _ _
    · exact .none
  all_goals exact .none

/-- The bytes of a frame come from the fields its operation reads (R111). -/
theorem Regs.bytes_same {r q : Regs} (h : r.Same q) : q.abyte = r.abyte ∧ q.dbyte = r.dbyte := by
  have hs := h State.reset.env []
  have hseq : q.seq = r.seq := hs.pc.1.symm
  cases hq : r.seq <;> simp only [Regs.abyte, Regs.dbyte, hseq, hq, and_self]
  case rdreg => exact ⟨congrArg _ (hs.addr (.inl hq)).symm, trivial⟩
  case wrreg => exact ⟨congrArg _ (hs.addr (.inr hq)).symm, (hs.wdata hq).symm⟩

/-- An edge reads nothing but what `SameOperation` names. -/
theorem edge_same (inp : Inputs) {r q : Regs} (h : r.Same q) : SameEdge (edge inp r) (edge inp q) := by
  have hs := h State.reset.env []
  have hseq : q.seq = r.seq := hs.pc.1.symm
  have hfe : q.fe = r.fe := hs.pc.2.symm
  obtain ⟨ha, hd⟩ := Regs.bytes_same h
  unfold edge
  by_cases hr : inp.rst = true
  · rw [if_pos hr, if_pos hr]
    exact .some ⟨fun _ _ => SameOperation.refl _, rfl⟩
  · rw [if_neg hr, if_neg hr]
    cases hf : r.fe <;> simp only [hseq, hfe, hf, ha, hd]
    case idle => exact Regs.edgeOutside_same h hf
    case release => exact Regs.edgeRelease_same h hf
    case select =>
      split_ifs with hq
      · exact .some ⟨Regs.phase_same (b := r.rx) (c := q.rx) h hq (fun hf => by cases hf), rfl⟩
      · exact .none
    case addr =>
      split_ifs with hq
      · exact .some ⟨Regs.phase_same (b := r.rx) (c := q.rx) h hq (fun hf => by cases hf), rfl⟩
      · exact .some ⟨h.hush, rfl⟩
      · exact .none
    case data =>
      split_ifs with hq
      · exact .some ⟨Regs.phase_same h hq (fun _ => rfl), rfl⟩
      · exact .some ⟨h.hush, rfl⟩
      · exact .none

/-! ### The states after an edge, a step and a run -/

/-- Two states whose next edges are alike, with one trace before them and one environment after, are alike after them. -/
theorem State.afterEdge_same_of_edge {s u : State} {cmd : Option CmdWord}
    (hnext : s.envNext = u.envNext) (htr : s.traceBegun cmd = u.traceBegun cmd)
    (h : SameEdge (edge (s.inputs cmd) s.regs) (edge (u.inputs cmd) u.regs)) :
    Option.Rel SameOperation (s.afterEdge cmd) (u.afterEdge cmd) := by
  unfold State.afterEdge
  rw [hnext, htr]
  generalize edge (s.inputs cmd) s.regs = a at h
  generalize edge (u.inputs cmd) u.regs = b at h
  cases h with
  | none => exact .none
  | some h => exact .some (sameOperation_iff.2 ⟨congrArg (u.traceBegun cmd ++ ·) h.2, rfl, h.1⟩)

/-- The parts of a state an edge shares with the state alike. -/
theorem SameOperation.shared {s u : State} (h : SameOperation s u) (cmd : Option CmdWord) :
    s.inputs cmd = u.inputs cmd ∧ s.envNext = u.envNext ∧ s.traceBegun cmd = u.traceBegun cmd ∧
      s.waits = u.waits := by
  have hx : s.regs.xferReq = u.regs.xferReq := by simp only [Regs.xferReq, h.pc.2]
  simp only [State.inputs, State.envNext, State.traceBegun, State.waits, hx, h.env, h.trace, h.pc.1, and_self]

theorem SameOperation.afterEdge {s u : State} (h : SameOperation s u) (cmd : Option CmdWord) :
    Option.Rel SameOperation (s.afterEdge cmd) (u.afterEdge cmd) := by
  obtain ⟨hi, hn, ht, -⟩ := h.shared cmd
  refine State.afterEdge_same_of_edge hn ht ?_
  rw [hi]
  exact edge_same _ (sameOperation_iff.1 h).2.2

/-- Where the edges of two states stop the step is the same. -/
theorem SameOperation.stops {s u s' u' : State} (hw : s.waits = u.waits) (h : SameOperation s' u') :
    s.Stops s' ↔ u.Stops u' := by
  have hs : s'.stuck = u'.stuck := by
    by_cases hq : s'.regs.seq = .measDec
    · have hk := h.kind (by rw [hq]; rfl)
      simp [State.stuck, hk, ← h.pc.1]
    · simp only [State.stuck, ← h.pc.1, beq_eq_false_iff_ne.2 hq, Bool.false_and]
  simp [State.Stops, hw, hs, h.pc.1]

/-- Runs of edges whose first edges are alike are alike. -/
theorem State.Goes.same {cmd : Option CmdWord} {s s' : State} (hg : State.Goes cmd s s') :
    ∀ {u : State}, s.waits = u.waits → Option.Rel SameOperation (s.afterEdge cmd) (u.afterEdge cmd) →
      ∃ u', State.Goes cmd u u' ∧ SameOperation s' u' := by
  induction hg with
  | last he hst =>
    intro u hw h
    rw [he] at h
    generalize hu : u.afterEdge cmd = b at h
    cases h with
    | some h => exact ⟨_, .last hu ((SameOperation.stops hw h).1 hst), h⟩
  | more he hn _ ih =>
    intro u hw h
    rw [he] at h
    generalize hu : u.afterEdge cmd = b at h
    cases h with
    | some h =>
      obtain ⟨u', hg, hs⟩ := ih (h.shared cmd).2.2.2 (h.afterEdge cmd)
      exact ⟨u', .more hu (fun hst => hn ((SameOperation.stops hw h).2 hst)) hg, hs⟩

theorem SameOperation.setEnv {s u : State} (h : SameOperation s u) (e : Env) :
    SameOperation (s.setEnv e) (u.setEnv e) := { h with env := rfl }

/-- One step of two states at the same point of the same operation. -/
theorem SameOperation.step {s u s' : State} (h : SameOperation s u) (hstep : step s = .next s') :
    ∃ u', step u = .next u' ∧ SameOperation s' u' := by
  cases hr : (s.env.callerAt 0).rst with
  | true =>
    have hru : (u.env.callerAt 0).rst = true := by rw [← h.env]; exact hr
    rw [step_eq, if_pos hr] at hstep
    cases hstep
    refine ⟨_, ?_, SameOperation.refl _⟩
    rw [step_eq, if_pos hru, ← h.env]
    rfl
  | false =>
    have hru : ¬ (u.env.callerAt 0).rst = true := by rw [← h.env, hr]; simp
    obtain ⟨hl, hg⟩ := goes_of_step hr hstep
    have he := h.setEnv s.env.popCaller
    obtain ⟨u', hgu, hs⟩ := hg.same (he.shared none).2.2.2 (he.afterEdge _)
    refine ⟨u', ?_, hs⟩
    rw [step_eq, if_neg hru, ← h.env]
    exact runBlock_of_goes (by rw [h.pc.1, h.pc.2] at hl; exact hl) hgu

/-- A step of one state stops where the step of the other does: the one fault of a step is `noTransition`. -/
theorem SameOperation.step_fault {s u : State} {f : Fault} (h : SameOperation s u) (hstep : Machine.step s = .fault f) :
    Machine.step u = .fault f := by
  obtain ⟨u', hu⟩ | hu := step_next_or_fault u
  · obtain ⟨s', hs, -⟩ := h.symm.step hu
    rw [hstep] at hs; cases hs
  · obtain ⟨s', hs⟩ | hs := step_next_or_fault s
    · rw [hstep] at hs; cases hs
    · rw [hu, ← hs, hstep]

/-- A run whose first step answers goes on from the state it answers. -/
theorem run_succ_of_next {M : Host.Core} {s t : M.State} (n : Nat) (h : M.step s = .next t) :
    M.run (n + 1) s = M.run n t := by
  simp [Host.Core.run, h]

/-- A run that answers took its first step. -/
theorem next_of_run_succ {M : Host.Core} {s s' : M.State} {n : Nat} (h : M.run (n + 1) s = .next s') :
    ∃ t, M.step s = .next t := by
  cases hs : M.step s with
  | next t => exact ⟨t, rfl⟩
  | fault f => simp [Host.Core.run, hs] at h
  | refused f => simp [Host.Core.run, hs] at h

theorem SameOperation.run (n : Nat) : ∀ {s u s' : State}, SameOperation s u →
    Host.Core.run Sys2Proof.core n s = .next s' →
    ∃ u', Host.Core.run Sys2Proof.core n u = .next u' ∧ SameOperation s' u' := by
  induction n with
  | zero => rintro s u s' h ⟨⟩; exact ⟨u, rfl, h⟩
  | succ n ih =>
    intro s u s' h hrun
    obtain ⟨t, ht⟩ := next_of_run_succ hrun
    obtain ⟨v, hv, hs⟩ := h.step ht
    obtain ⟨u', hu, hs'⟩ := ih hs ((run_succ_of_next n ht).symm.trans hrun)
    exact ⟨u', (run_succ_of_next n hv).trans hu, hs'⟩

/-- Settles O52: step by step, the edges of the two states are alike. -/
theorem sameOperationRuns : Obligations.SameOperationRuns :=
  ⟨fun _ _ h => ⟨fun _ => h.step, fun _ => h.step_fault⟩, fun n _ _ _ h hrun => h.run n hrun⟩

/-! ### A command from idle -/

/-- A command has, from idle, the meaning of some command word; an RDMEAS of kind 0 or 1 that of RDRAW or RDTEMP. -/
theorem exec_eq_runCommand {i : Instr} (hc : isCommand i = true) :
    ∃ w, ∀ s : State, s.Idle → exec i s = runCommand w s := by
  have packed : ∀ op kind ign addr wdata, decodeCmd (packCmd op kind ign addr wdata) = .ok i →
      ∃ w, ∀ s : State, s.Idle → exec i s = runCommand w s := fun op kind ign addr wdata h =>
    ⟨packCmd op kind ign addr wdata, fun _ _ => (runCommand_of_decode h).symm⟩
  have measure : ∀ kind ign addr wdata, i.expand = .rdmeas kind ign addr wdata →
      ∃ w, ∀ s : State, s.Idle → exec i s = runCommand w s := fun kind ign addr wdata h => by
    obtain ⟨ho, hk, -, ha, hw⟩ := packCmd_fields 0x5#4 kind ign addr wdata
    refine ⟨packCmd 0x5#4 kind ign addr wdata, fun s hi => ?_⟩
    rw [exec_of_expand_rdmeas i kind ign addr wdata s hi h, runCommand_of_rdmeas hi ho, State.accepted, ho, hk, ha, hw]
  cases i with
  | rdreg kind ign addr wdata => exact packed 0x1#4 kind ign addr wdata (by simp [decodeCmd, packCmd_fields])
  | wrreg kind ign addr wdata =>
    exact packed 0x2#4 kind ign addr wdata (by simp [decodeCmd, packCmd_fields, Config.opRdreg])
  | init kind ign addr wdata =>
    exact packed 0x3#4 kind ign addr wdata (by simp [decodeCmd, packCmd_fields, Config.opRdreg, Config.opWrreg])
  | hasflt kind ign addr wdata =>
    exact packed 0x4#4 kind ign addr wdata
      (by simp [decodeCmd, packCmd_fields, Config.opRdreg, Config.opWrreg, Config.opInit])
  | rdmeas kind ign addr wdata => exact measure kind ign addr wdata rfl
  | rdraw ign addr wdata => exact measure 0x0#4 ign addr wdata rfl
  | rdtemp ign addr wdata => exact measure 0x1#4 ign addr wdata rfl
  | rdFrame a => cases hc
  | wrFrame a d => cases hc

/-- Two idle states with one environment take a command to the same point of the same operation, whatever their
registers and traces. -/
theorem runCommand_same {s u : State} (w : CmdWord) (hs : s.Idle) (hu : u.Idle) (henv : s.env = u.env) :
    ∃ s' u', runCommand w s = .next s' ∧ runCommand w u = .next u' ∧ SameOperation s' u' := by
  have legal : ∀ {s : State}, s.Idle → pcLegal s.regs.seq s.regs.fe = true := fun h => by rw [h.1, h.2]; rfl
  have waits : ∀ {s : State}, s.Idle → s.waits = false := fun h => by simp [State.waits, Regs.xferReq, h.2]
  have block : ∀ {s : State}, s.Idle → runBlock (some w) s = runCommand w s := fun h =>
    runBlock_of_idle (some w) _ h
  obtain ⟨s', h, hg⟩ := runBlock_goes (cmd := some w) (legal hs) (by simp [State.stuck, hs.1])
  obtain ⟨u', hgu, hsame⟩ := hg.same ((waits hs).trans (waits hu).symm)
    (State.afterEdge_same_of_edge (by simp [State.envNext, Regs.xferReq, hs.1, hs.2, hu.1, hu.2, henv])
      (by simp [State.traceBegun, hs.1, hu.1]) (by
        simpa [edge, State.inputs, hs.2, hu.2, Regs.edgeOutside, hs.1, hu.1] using Regs.edgeAccept_same w hs.2 hu.2))
  exact ⟨s', u', (block hs).symm.trans h, (block hu).symm.trans (runBlock_of_goes (legal hu) hgu), hsame⟩

/-- Settles O24: a command has the meaning of a command word, whose acceptance reads nothing of the registers. -/
theorem nothingPersists : Obligations.NothingPersists := by
  intro i s u hc hs hu henv
  obtain ⟨w, hw⟩ := exec_eq_runCommand hc
  rw [hw s hs, hw u hu]
  exact runCommand_same w hs hu henv

end Sys2Proof.Machine
end

section
/-! The register table of the IC (spec/20_memory.md R31): address bytes as direction and address. -/

namespace Sys2Proof.Machine

/-- The write address byte of a register is its read address byte with bit 7 set (R31, R51). -/
theorem addressByte_write (a : Addr) : addressByte 1#1 a = addressByte 0#1 a ||| 0x80#8 :=
  calc (1#1 ++ a : Byte) = (0#1 ||| 1#1) ++ (a ||| 0#7) := by rw [BitVec.zero_or, BitVec.or_zero]
    _ = (0#1 ++ a) ||| (1#1 ++ 0#7) := BitVec.or_append.symm

theorem IcReg.readByte_eq (r : IcReg) : r.readByte = addressByte 0#1 r.address := by
  cases r <;> rfl

/-- A write byte of the table is direction 1 and the address of its register (R31, R51). -/
theorem IcReg.eq_of_writeByte {r : IcReg} {b : Byte} (h : r.writeByte = some b) :
    b = addressByte 1#1 r.address := by
  cases r with
  | rtdMsb | rtdLsb | faultStatus => cases h
  | config | hftMsb | hftLsb | lftMsb | lftLsb => cases h; rfl

/-- The registers that are read only (R31). -/
theorem IcReg.writeByte_eq_none_iff (r : IcReg) :
    r.writeByte = none ↔ r = .rtdMsb ∨ r = .rtdLsb ∨ r = .faultStatus := by
  cases r <;> simp [IcReg.writeByte]

/-- Settles O5: the bytes of the table are direction and address, and setting bit 7 turns direction 0 into 1. -/
theorem registerTable : Obligations.RegisterTable := fun r =>
  ⟨r.readByte_eq,
    fun b h => by
      have hb := IcReg.eq_of_writeByte h
      exact ⟨hb, by rw [hb, addressByte_write, r.readByte_eq]⟩,
    r.writeByte_eq_none_iff⟩

end Sys2Proof.Machine
end

section
/-! The inputs an edge looks at (spec/45_sequencer.md R112, R114, R115, R117). -/

namespace Sys2Proof.Machine

/-- An edge outside any frame looks at the command port in `S_IDLE` and at data-ready in `S_MEAS_CHK` (R112, R117). -/
theorem Regs.edgeOutside_congr {inp inp' : Inputs} {r : Regs}
    (hcmd : r.seq = .idle → inp.cmdValid = inp'.cmdValid ∧ inp.cmd = inp'.cmd)
    (hlvl : r.seq = .measChk → inp.drdyN = inp'.drdyN) : r.edgeOutside inp = r.edgeOutside inp' := by
  cases hq : r.seq <;> simp only [Regs.edgeOutside, hq]
  case idle =>
    obtain ⟨hv, hw⟩ := hcmd hq
    rw [hv, hw]
  case measChk => rw [hlvl hq]

/-- Settles O45: by the phase of the frame. Outside a frame the edge is that of `edgeOutside`, in `F_ADDR` and `F_DATA` an
exchange is requested, and `F_SELECT` and `F_RELEASE` look at no input but reset. -/
theorem inputsIgnored : Obligations.InputsIgnored := by
  intro inp inp' r hrst hcmd hxfer hlvl
  unfold edge
  rw [hrst]
  cases hf : r.fe <;> dsimp only
  case idle => rw [Regs.edgeOutside_congr hcmd hlvl]
  case addr | data =>
    obtain ⟨hd, hb⟩ := hxfer (by rw [Regs.xferReq, hf])
    rw [hd, hb]

end Sys2Proof.Machine
end

section
/-! The decoder and the encoder are inverse to each other (spec/30_encoding.md R50, R52, R53, R58). -/

namespace Sys2Proof

/-- The decoder's own name of an instruction: an RDMEAS of kind 0 or 1 is RDRAW or RDTEMP (R58). -/
def Instr.named : Instr → Instr
  | .rdmeas kind ign addr wdata =>
    if kind = Config.kindRaw then .rdraw ign addr wdata
    else if kind = Config.kindTemp then .rdtemp ign addr wdata
    else .rdmeas kind ign addr wdata
  | i => i

theorem Instr.named_of_wf {i : Instr} (h : i.wf = true) : i.named = i := by
  cases i with
  | rdmeas kind ign addr wdata =>
    obtain ⟨hr, ht⟩ : kind ≠ Config.kindRaw ∧ kind ≠ Config.kindTemp := by simpa [Instr.wf] using h
    rw [Instr.named, if_neg hr, if_neg ht]
  | _ => rfl

/-- An instruction and the decoder's name of it expand to one command. -/
theorem Instr.expand_named (i : Instr) : i.named.expand = i.expand := by
  cases i with
  | rdmeas kind ign addr wdata =>
    simp only [Instr.named]
    split_ifs with hr ht
    · rw [hr]; rfl
    · rw [ht]; rfl
    · rfl
  | _ => rfl

/-- A pseudo-instruction has the code of the command it expands to (R58). -/
theorem encode_expand (i : Instr) : encode i.expand = encode i := by
  cases i <;> rfl

/-- The code of an instruction is decoded to the decoder's name of it. -/
theorem decode_encode (i : Instr) : decode (encode i) = .ok i.named := by
  cases i with
  | rdFrame | wrFrame => simp [encode, decode, decodeFrame, packWire_fields, Instr.named]
  | rdreg | wrreg | init | hasflt | rdmeas | rdraw | rdtemp =>
    simp only [encode, decode, decodeCmd, packCmd_fields, Instr.named, apply_ite Except.ok]
    rfl

/-- Where the decoder reads an operation, packing it with the fields of the word gives the word. -/
theorem packCmd_fields_eq_iff (w : CmdWord) (op : Nibble) :
    packCmd op (cmdKind w) (cmdIgn w) (cmdAddr w) (cmdWdata w) = w ↔ cmdOp w = op := by
  constructor
  · intro h
    rw [← h]
    exact (packCmd_fields _ _ _ _ _).1
  · rintro rfl
    exact packCmd_of_fields w

/-- What a command word is decoded to is well formed, and its code is that word. -/
theorem encode_of_decodeCmd {w : CmdWord} {i : Instr} (h : decodeCmd w = .ok i) :
    encode i = .cmd w ∧ i.wf = true := by
  have pack : ∀ {op : Nibble}, cmdOp w = op →
      Code.cmd (packCmd op (cmdKind w) (cmdIgn w) (cmdAddr w) (cmdWdata w)) = .cmd w := fun ho =>
    congrArg Code.cmd ((packCmd_fields_eq_iff w _).2 ho)
  simp only [decodeCmd] at h
  split_ifs at h with h1 h2 h3 h4 h5 hr ht <;> cases h
  · exact ⟨pack h1, rfl⟩
  · exact ⟨pack h2, rfl⟩
  · exact ⟨pack h3, rfl⟩
  · exact ⟨pack h4, rfl⟩
  · exact ⟨by rw [← pack h5, hr]; rfl, rfl⟩
  · exact ⟨by rw [← pack h5, ht]; rfl, rfl⟩
  · exact ⟨pack h5, by simp [Instr.wf, hr, ht]⟩

/-- What two sent bytes are decoded to is well formed, and its code is those bytes. -/
theorem encode_of_decodeFrame {w : WireWord} {i : Instr} (h : decodeFrame w = .ok i) :
    encode i = .wire w ∧ i.wf = true := by
  have hw := packWire_of_fields w
  unfold decodeFrame at h
  split_ifs at h with hd hb <;> cases h
  · rw [hd] at hw
    exact ⟨congrArg Code.wire hw, rfl⟩
  · have hr : wireDir w = 0#1 := Machine.level_zero_of_ne_one hd
    rw [hr, hb] at hw
    exact ⟨congrArg Code.wire hw, rfl⟩

/-- Settles O1: the code of an instruction is decoded to the decoder's name of it, which a well-formed one bears. -/
theorem decodeEncode : Obligations.DecodeEncode := fun i h => by
  rw [decode_encode, Instr.named_of_wf h]

/-- Settles O2: every branch of the decoder packs again to the code it has read. -/
theorem encodeDecode : Obligations.EncodeDecode := fun c _ h =>
  match c with
  | .cmd _ => encode_of_decodeCmd h
  | .wire _ => encode_of_decodeFrame h

end Sys2Proof
end

section
/-! The operation codes (spec/30_encoding.md R53, R56) and the frames the sequencer sends (R50). -/

namespace Sys2Proof

/-- A command word meets the row of an operation where its operation code is that operation (R53). -/
theorem and_op_mask_eq_iff (w : CmdWord) (op : Nibble) : w &&& 0xF00000#24 = op ++ 0x00000#20 ↔ cmdOp w = op := by
  rw [cmd_and_op_mask, BitVec.append_left_inj]

/-- A command word meets the row of an operation exactly where it is decoded to the well-formed instruction that packs
that operation with the other fields of the word. -/
theorem and_op_mask_eq_iff_decode {w : CmdWord} {op : Nibble} {i : Instr} (hwf : i.wf = true)
    (hi : encode i = .cmd (packCmd op (cmdKind w) (cmdIgn w) (cmdAddr w) (cmdWdata w))) :
    w &&& 0xF00000#24 = op ++ 0x00000#20 ↔ decode (.cmd w) = .ok i := by
  rw [and_op_mask_eq_iff, ← packCmd_fields_eq_iff]
  constructor
  · intro h
    rw [← congrArg Code.cmd h, ← hi, decodeEncode i hwf]
  · intro h
    exact Code.cmd.inj (hi.symm.trans (encodeDecode _ _ h).1)

/-- A command word meets the row of RDMEAS exactly where it is decoded to RDMEAS or one of its pseudo-instructions
(R58). -/
theorem and_op_mask_eq_rdmeas_iff (w : CmdWord) :
    w &&& 0xF00000#24 = 0x500000#24 ↔
      ∃ i, decode (.cmd w) = .ok i ∧ i.expand = .rdmeas (cmdKind w) (cmdIgn w) (cmdAddr w) (cmdWdata w) := by
  rw [show 0x500000#24 = Config.opRdmeas ++ 0x00000#20 from rfl, and_op_mask_eq_iff, ← packCmd_fields_eq_iff]
  constructor
  · intro h
    have hd := decode_encode (.rdmeas (cmdKind w) (cmdIgn w) (cmdAddr w) (cmdWdata w))
    rw [encode, h] at hd
    exact ⟨_, hd, Instr.expand_named _⟩
  · rintro ⟨i, hd, hi⟩
    have he : encode i.expand = .cmd w := (encode_expand i).trans (encodeDecode _ _ hd).1
    rw [hi] at he
    exact Code.cmd.inj he

/-- The operation codes that are reserved are those of no operation (R53, R56). -/
theorem reservedOp_iff (op : Nibble) : (op = 0x0#4 ∨ 0x6#4 ≤ op) ↔
    op ≠ Config.opRdreg ∧ op ≠ Config.opWrreg ∧ op ≠ Config.opInit ∧ op ≠ Config.opHasflt ∧
      op ≠ Config.opRdmeas := by
  revert op; decide

/-- A command word is rejected exactly where its operation code is reserved (R56). -/
theorem decodeCmd_eq_error_iff (w : CmdWord) :
    decodeCmd w = .error (.reservedOp (cmdOp w)) ↔ cmdOp w = 0x0#4 ∨ 0x6#4 ≤ cmdOp w := by
  rw [reservedOp_iff]
  simp only [decodeCmd]
  split_ifs <;> simp [*]

/-- Settles O3: a row is met where the operation code is the row's, and then the word is the code of the instruction
with the fields of the word. -/
theorem operationCodes : Obligations.OperationCodes := fun w =>
  ⟨and_op_mask_eq_iff_decode (op := 0x1#4) rfl rfl, and_op_mask_eq_iff_decode (op := 0x2#4) rfl rfl,
    and_op_mask_eq_iff_decode (op := 0x3#4) rfl rfl, and_op_mask_eq_iff_decode (op := 0x4#4) rfl rfl,
    and_op_mask_eq_rdmeas_iff w, (decodeCmd_eq_error_iff w).symm⟩

/-- Settles O4: each word is read by evaluating the decoder. -/
theorem specWordsDecode : Obligations.SpecWordsDecode :=
  ⟨decodeCmd_rdreg_example, by decide, by decide, decodeCmd_hasflt_example, by decide, decodeCmd_rdraw_example, by decide,
    decodeFrame_rdFrame_example, by decide, by decide, by decide⟩

end Sys2Proof

namespace Sys2Proof.Machine

/-- Two sent bytes of direction 0, the second the dummy byte, are a read frame (R50). -/
theorem Regs.sendsReadFrame {r : Regs} (a : Addr) (ha : r.abyte = addressByte 0#1 a) (hd : r.dbyte = 0xFF#8) :
    ∃ a, decode (.wire r.wireWord) = .ok (.rdFrame a) ∧ r.abyte = addressByte 0#1 a ∧ r.dbyte = 0xFF#8 := by
  refine ⟨a, ?_, ha, hd⟩
  rw [Regs.wireWord, ha, hd, decode_wire_append]
  rfl

/-- Two sent bytes of direction 1 are a write frame (R50). -/
theorem Regs.sendsWriteFrame {r : Regs} (a : Addr) (ha : r.abyte = addressByte 1#1 a) :
    ∃ a d, decode (.wire r.wireWord) = .ok (.wrFrame a d) ∧ r.abyte = addressByte 1#1 a ∧ r.dbyte = d := by
  refine ⟨a, r.dbyte, ?_, ha, rfl⟩
  rw [Regs.wireWord, ha, decode_wire_append]
  rfl

/-- Settles O7: by the frame-running state, which fixes the direction, and with direction 0 the second byte (R111). -/
theorem sentFramesHaveAShape : Obligations.SentFramesHaveAShape := by
  intro r hr
  cases hq : r.seq
  case idle | measChk | measFlt | measDec => rw [hq] at hr; cases hr
  case rdreg => exact .inl (Regs.sendsReadFrame r.addr (by rw [Regs.abyte, hq]) (by rw [Regs.dbyte, hq]; rfl))
  case initCR =>
    exact .inl (Regs.sendsReadFrame params.addrConfig (by rw [Regs.abyte, hq]; rfl) (by rw [Regs.dbyte, hq]; rfl))
  case hasflt | measLsb =>
    exact .inl (Regs.sendsReadFrame params.addrRtdLsb (by rw [Regs.abyte, hq]; rfl) (by rw [Regs.dbyte, hq]; rfl))
  case measMsb =>
    exact .inl (Regs.sendsReadFrame params.addrRtdMsb (by rw [Regs.abyte, hq]; rfl) (by rw [Regs.dbyte, hq]; rfl))
  case wrreg => exact .inr (Regs.sendsWriteFrame r.addr (by rw [Regs.abyte, hq]))
  case initCW => exact .inr (Regs.sendsWriteFrame params.addrConfig (by rw [Regs.abyte, hq]; rfl))
  case initHM => exact .inr (Regs.sendsWriteFrame params.addrHftMsb (by rw [Regs.abyte, hq]; rfl))
  case initHL => exact .inr (Regs.sendsWriteFrame params.addrHftLsb (by rw [Regs.abyte, hq]; rfl))
  case initLM => exact .inr (Regs.sendsWriteFrame params.addrLftMsb (by rw [Regs.abyte, hq]; rfl))
  case initLL => exact .inr (Regs.sendsWriteFrame params.addrLftLsb (by rw [Regs.abyte, hq]; rfl))

/-- Settles O22: a reserved operation code is rejected by the decoder, and the idle block answers a rejected word at
once. -/
theorem reservedOperations : Obligations.ReservedOperations := by
  intro s w hi hc ho
  rw [step_of_idle s (by rw [hc]) hi, hc]
  exact runCommand_of_reserved (s := s.setEnv s.env.popCaller) hi ((decodeCmd_eq_error_iff w).2 ho)

end Sys2Proof.Machine
end

section
/-! The assembler (spec/30_encoding.md R58): each line has the code of the command it names. -/

namespace Sys2Proof.Machine

/-- The command a line of the assembler names, in canonical form (R55, R58). -/
def Asm.instr : Asm → Instr
  | .rdreg a => .rdreg 0 0 (BitVec.ofNat 7 a) 0
  | .wrreg a v => .wrreg 0 0 (BitVec.ofNat 7 a) (BitVec.ofNat 8 v)
  | .init => .init 0 0 0 0
  | .hasflt => .hasflt 0 0 0 0
  | .rdmeas n => .rdmeas (BitVec.ofNat 4 n) 0 0 0
  | .rdraw => .rdraw 0 0 0
  | .rdtemp => .rdtemp 0 0 0

/-- The decoder's name of a command in canonical form is in canonical form. -/
theorem Asm.canonical_named_instr (l : Asm) : l.instr.named.canonical = true := by
  cases l with
  | rdmeas n =>
    simp only [Asm.instr, Instr.named]
    split_ifs <;> rfl
  | _ => rfl

/-- The numbers of an operation, a kind, an address and a value, masked to the width of their fields and put in their
places, are the command word of those fields (R52). -/
theorem packCmd_ofNat (op kind addr wdata : Nat) :
    packCmd (BitVec.ofNat 4 op) (BitVec.ofNat 4 kind) 0#1 (BitVec.ofNat 7 addr) (BitVec.ofNat 8 wdata) =
      BitVec.ofNat 24 (op <<< 20 ||| ((kind &&& 0xF) <<< 16 ||| ((addr &&& 0x7F) <<< 8 ||| (wdata &&& 0xFF)))) := by
  have hk : kind &&& 0xF = kind % 2 ^ 4 := Nat.and_two_pow_sub_one_eq_mod kind 4
  have ha : addr &&& 0x7F = addr % 2 ^ 7 := Nat.and_two_pow_sub_one_eq_mod addr 7
  have hw : wdata &&& 0xFF = wdata % 2 ^ 8 := Nat.and_two_pow_sub_one_eq_mod wdata 8
  apply BitVec.eq_of_toNat_eq
  rw [packCmd_toNat, hk, ha, hw, ← Nat.shiftLeft_add_eq_or_of_lt (i := 8) (by omega),
    ← Nat.shiftLeft_add_eq_or_of_lt (i := 16) (by omega), ← Nat.shiftLeft_add_eq_or_of_lt (i := 20) (by omega)]
  simp only [BitVec.toNat_ofNat, Nat.shiftLeft_eq]
  omega

/-- A line that assembles gives the code of the command it names. -/
theorem encode_instr_of_assemble {l : Asm} {w : CmdWord} (h : assemble l = some w) : encode l.instr = .cmd w := by
  cases l with
  | rdreg a =>
    obtain ⟨-, ⟨⟩⟩ := Option.ite_none_right_eq_some.1 h
    exact congrArg Code.cmd (by simpa using packCmd_ofNat 1 0 a 0)
  | wrreg a v =>
    obtain ⟨-, ⟨⟩⟩ := Option.ite_none_right_eq_some.1 h
    exact congrArg Code.cmd (by simpa [Nat.or_assoc] using packCmd_ofNat 2 0 a v)
  | rdmeas n =>
    obtain ⟨-, ⟨⟩⟩ := Option.ite_none_right_eq_some.1 h
    exact congrArg Code.cmd (by simpa using packCmd_ofNat 5 n 0 0)
  | init | hasflt | rdraw | rdtemp => cases h; rfl

theorem decode_of_assemble {l : Asm} {w : CmdWord} (h : assemble l = some w) : decode (.cmd w) = .ok l.instr.named := by
  rw [← encode_instr_of_assemble h, decode_encode]

theorem decode_of_assemble_isSome {l : Asm} (h : (assemble l).isSome = true) :
    ∃ w, assemble l = some w ∧ decode (.cmd w) = .ok l.instr.named := by
  obtain ⟨w, hw⟩ := Option.isSome_iff_exists.1 h
  exact ⟨w, hw, decode_of_assemble hw⟩

/-- Settles O6: a line assembles exactly with its operands in range, to the code of the command it names. -/
theorem assemblerWords : Obligations.AssemblerWords := by
  refine ⟨fun a => ⟨fun h => ?_, fun h => if_neg (by omega)⟩, fun a v => ⟨fun h => ?_, fun h => if_neg (by omega)⟩,
    ?_, ?_, fun n => ⟨fun h => ?_, fun h => if_neg (by omega)⟩, ?_, ?_, ?_,
    rfl, rfl, rfl, rfl, rfl, rfl, rfl, rfl⟩
  · exact decode_of_assemble_isSome (l := .rdreg a) (by simp [assemble, h])
  · exact decode_of_assemble_isSome (l := .wrreg a v) (by simp [assemble, h])
  · exact decode_of_assemble_isSome (l := .init) rfl
  · exact decode_of_assemble_isSome (l := .hasflt) rfl
  · obtain ⟨w, hw, hd⟩ := decode_of_assemble_isSome (l := .rdmeas n) (by simp [assemble, h])
    exact ⟨w, _, hw, hd, Instr.expand_named _⟩
  · exact ⟨0x500000#24, rfl, rfl, decode_of_assemble (l := .rdraw) rfl⟩
  · exact ⟨0x510000#24, rfl, rfl, decode_of_assemble (l := .rdtemp) rfl⟩
  · intro l w i hw hd
    cases (decode_of_assemble hw).symm.trans hd
    exact l.canonical_named_instr

end Sys2Proof.Machine
end

section
/-! The fields an operation ignores (spec/30_encoding.md R55), and the pseudo-instructions (R58). -/

namespace Sys2Proof

/-- The command with its ignored fields zero (R55). -/
def Instr.clearIgnored : Instr → Instr
  | .rdreg _ _ addr _ => .rdreg 0 0 addr 0
  | .wrreg _ _ addr wdata => .wrreg 0 0 addr wdata
  | .init _ _ _ _ => .init 0 0 0 0
  | .hasflt _ _ _ _ => .hasflt 0 0 0 0
  | .rdmeas kind _ _ _ => .rdmeas kind 0 0 0
  | .rdraw _ _ _ => .rdraw 0 0 0
  | .rdtemp _ _ _ => .rdtemp 0 0 0
  | .rdFrame a => .rdFrame a
  | .wrFrame a d => .wrFrame a d

theorem Instr.canonical_clearIgnored (i : Instr) : i.clearIgnored.canonical = true := by
  cases i <;> rfl

end Sys2Proof

namespace Sys2Proof.Machine

/-- Settles O17: by the instruction; each arm of `exec` is that of what the instruction expands to. -/
theorem pseudoInstructions : Obligations.PseudoInstructions := by
  intro i s
  cases i <;> rfl

/-- The word of a command runs that command. -/
theorem runCommand_of_encode {i : Instr} {w : CmdWord} (h : encode i = .cmd w) (s : State) :
    runCommand w s = exec i s := by
  have hd : decode (.cmd w) = .ok i.named := by rw [← h, decode_encode]
  rw [runCommand_of_decode hd, pseudoInstructions, Instr.expand_named, ← pseudoInstructions]

/-- Two command words of one operation agree in the fields that operation uses (R55). -/
structure SameUsedFields (w v : CmdWord) : Prop where
  op : cmdOp w = cmdOp v
  addr : cmdOp w = Config.opRdreg ∨ cmdOp w = Config.opWrreg → cmdAddr w = cmdAddr v
  wdata : cmdOp w = Config.opWrreg → cmdWdata w = cmdWdata v
  kind : cmdOp w = Config.opRdmeas → cmdKind w = cmdKind v

theorem sameUsedFields_packCmd {op kind kind' : Nibble} {ign ign' : Bit} {addr addr' : Addr} {wdata wdata' : Byte}
    (ha : op = Config.opRdreg ∨ op = Config.opWrreg → addr = addr') (hw : op = Config.opWrreg → wdata = wdata')
    (hk : op = Config.opRdmeas → kind = kind') :
    SameUsedFields (packCmd op kind ign addr wdata) (packCmd op kind' ign' addr' wdata') := by
  obtain ⟨ho, hk1, -, ha1, hw1⟩ := packCmd_fields op kind ign addr wdata
  obtain ⟨ho', hk2, -, ha2, hw2⟩ := packCmd_fields op kind' ign' addr' wdata'
  constructor
  · rw [ho, ho']
  · rwa [ho, ha1, ha2]
  · rwa [ho, hw1, hw2]
  · rwa [ho, hk1, hk2]

/-- Register files that differ in fields the sequencer state does not read are at the same point (R55). -/
theorem Regs.same_of_used {r : Regs} {kind : Nibble} {addr : Addr} {wdata : Byte}
    (ha : r.seq = .rdreg ∨ r.seq = .wrreg → r.addr = addr) (hw : r.seq = .wrreg → r.wdata = wdata)
    (hk : r.seq.measuring = true → r.kind = kind) :
    r.Same { r with kind := kind, addr := addr, wdata := wdata } := fun _ _ =>
  ⟨⟨rfl, ⟨rfl, rfl⟩, rfl, rfl, fun _ => ⟨rfl, rfl⟩⟩, ha, hw, hk, fun _ => rfl, fun _ => rfl, fun _ => rfl⟩

/-- Two words that agree in the fields used are accepted alike (R112). -/
theorem SameUsedFields.edgeAccept {w v : CmdWord} (h : SameUsedFields w v) (r : Regs) :
    (r.edgeAccept w).1.Same (r.edgeAccept v).1 ∧ (r.edgeAccept w).2 = (r.edgeAccept v).2 := by
  simp only [Regs.edgeAccept, ← h.op]
  split_ifs with h1 h2 h3 h4 h5 hw hv hv
  · exact ⟨Regs.same_of_used (fun _ => h.addr (.inl h1)) nofun nofun, rfl⟩
  · exact ⟨Regs.same_of_used (fun _ => h.addr (.inr h2)) (fun _ => h.wdata h2) nofun, rfl⟩
  · exact ⟨Regs.same_of_used nofun nofun nofun, rfl⟩
  · exact ⟨Regs.same_of_used nofun nofun nofun, rfl⟩
  · exact ⟨Regs.same_of_used nofun nofun (fun _ => h.kind h5), rfl⟩
  · exact absurd (h.kind h5 ▸ hw) hv
  · exact absurd (h.kind h5 ▸ hv) hw
  · exact ⟨Regs.same_of_used nofun nofun nofun, rfl⟩
  · exact ⟨Regs.same_of_used nofun nofun nofun, rfl⟩

/-- Two states at the same point of the same operation go on alike. -/
theorem SameOperation.goOn {s u s' : State} (h : SameOperation s u) (hb : s.regs.seq ≠ .idle)
    (hg : Machine.goOn s = .next s') : ∃ u', Machine.goOn u = .next u' ∧ SameOperation s' u' := by
  have hl : pcLegal s.regs.seq s.regs.fe = true := by
    cases hl : pcLegal s.regs.seq s.regs.fe with
    | true => rfl
    | false => cases (goOn_of_not_legal s hl).symm.trans hg
  have hrun := goes_of_runBlock (cmd := none) hl ((runBlock_of_busy none s hb).trans hg)
  obtain ⟨-, -, -, hwaits⟩ := h.shared none
  obtain ⟨u', hgu, hs⟩ := hrun.same hwaits (h.afterEdge none)
  refine ⟨u', ?_, hs⟩
  rw [← runBlock_of_busy none u (by rwa [← h.pc.1])]
  exact runBlock_of_goes (by rwa [← h.pc.1, ← h.pc.2]) hgu

/-- Two words that agree in the fields used lead an idle block to the same point of the same operation. -/
theorem SameUsedFields.runCommand {w v : CmdWord} (h : SameUsedFields w v) {s : State} (hi : s.Idle) :
    ∃ t u, Machine.runCommand w s = .next t ∧ Machine.runCommand v s = .next u ∧ SameOperation t u := by
  obtain ⟨s', -, hrun, -⟩ := runCommand_same w hi hi rfl
  obtain ⟨t, ht, hrt⟩ := runCommand_byEdge (w := w) hi
  obtain ⟨u, hu, hru⟩ := runCommand_byEdge (w := v) hi
  have hsame : SameOperation t u := by
    cases (State.afterEdge_of_accept hi rfl).symm.trans ht
    cases (State.afterEdge_of_accept hi rfl).symm.trans hu
    obtain ⟨hr, hev⟩ := h.edgeAccept s.regs
    exact sameOperation_iff.2 ⟨hev, rfl, hr⟩
  have hstops := SameOperation.stops (s := s) rfl hsame
  obtain ⟨hst, hrt⟩ | ⟨hnt, -, hrt⟩ := hrt <;> obtain ⟨hsu, hru⟩ | ⟨hnu, -, hru⟩ := hru
  · exact ⟨t, u, hrt, hru, hsame⟩
  · exact absurd (hstops.1 hst) hnu
  · exact absurd (hstops.2 hsu) hnt
  · obtain ⟨u', hu', hs⟩ := hsame.goOn (fun hq => hnt (.inr (.inl hq))) (hrt.symm.trans hrun)
    exact ⟨s', u', hrun, hru.trans hu', hs⟩

/-- Two commands whose words agree in the fields used have the same outcome from an idle block (R55). -/
theorem SameUsedFields.exec {w v : CmdWord} (h : SameUsedFields w v) {i j : Instr} (hi : encode i = .cmd w)
    (hj : encode j = .cmd v) {s : State} (hs : s.Idle) :
    ∃ t u, Machine.exec i s = .next t ∧ Machine.exec j s = .next u ∧ SameOperation t u := by
  rw [← runCommand_of_encode hi, ← runCommand_of_encode hj]
  exact h.runCommand hs

/-- Clearing the ignored fields of a command keeps those its operation uses. -/
theorem sameUsedFields_clearIgnored {i : Instr} (hc : isCommand i = true) :
    ∃ w v, encode i = .cmd w ∧ encode i.clearIgnored = .cmd v ∧ SameUsedFields w v := by
  cases i with
  | rdFrame | wrFrame => cases hc
  | rdreg | wrreg | init | hasflt | rdmeas | rdraw | rdtemp =>
    exact ⟨_, _, rfl, rfl, sameUsedFields_packCmd (by simp +decide) (by simp +decide) (by simp +decide)⟩

/-- Settles O23: the words of the two commands agree in the fields their operation uses, and acceptance reads no
others. -/
theorem ignoredFields : Obligations.IgnoredFields := by
  intro s kind kind' ign ign' addr addr' wdata wdata' hi
  have canonical : ∀ i, isCommand i = true → ∃ c, c.canonical = true ∧
      ∃ t u, exec i s = .next t ∧ exec c s = .next u ∧ SameOperation t u := fun i hc => by
    obtain ⟨w, v, hw, hv, h⟩ := sameUsedFields_clearIgnored hc
    exact ⟨_, i.canonical_clearIgnored, h.exec hw hv hi⟩
  refine ⟨?_, ?_, ?_, ?_, ?_, canonical⟩
  all_goals exact (sameUsedFields_packCmd (by simp +decide) (by simp +decide) (by simp +decide)).exec rfl rfl hi

end Sys2Proof.Machine
end

section
/-! The Bus Transaction Layer (spec/40_bus_transaction.md): what a frame answers and where it stops, what RDREG and WRREG
answer, and what the operations of the bus leave unchanged. -/

namespace Sys2Proof.Machine

/-! ### A frame with both exchanges answered -/

theorem State.Answers.two {s : State} {r b : Byte} (h : s.Answers [r, b]) :
    s.env.answerAt 0 = some r ∧ s.env.answerAt 1 = some b := ⟨h 0 r rfl, h 1 b rfl⟩

/-- Settles O8: `MemRead` and `MemWrite` are frames by definition. -/
theorem framePrimitive : Obligations.FramePrimitive := by
  intro s q ab db v r b a h
  obtain ⟨h0, h1⟩ := h.two
  exact ⟨State.frame_done s q ab db r b h0 h1, rfl, rfl⟩

section
variable {s : State} (ab db : Byte)

/-- With chip-select already asserted the exchanges follow (R62, R63). -/
theorem runFrame_of_select (hq : s.regs.seq.runsFrame = true) (hf : s.regs.fe = .select) :
    runFrame ab db s = .next (s.quiet.frameSelected ab db) := by
  simp [runFrame, hq, hf]

/-- With the frame before ended a whole frame follows (R62, R63). -/
theorem runFrame_of_release (hq : s.regs.seq.runsFrame = true) (hf : s.regs.fe = .release) :
    runFrame ab db s = .next (s.quiet.frame s.regs.seq ab db) := by
  simp [runFrame, hq, hf]

/-- No frame begins inside a frame (R65). -/
theorem runFrame_of_inProgress (hq : s.regs.seq.runsFrame = true) (hf : s.regs.fe = .addr ∨ s.regs.fe = .data) :
    runFrame ab db s = .fault .frameInProgress := by
  obtain hf | hf := hf <;> simp [runFrame, hq, hf]

/-- No frame begins where `seq` runs none, nor in a frame-running state outside any frame (R16, R121). -/
theorem runFrame_of_excluded (h : s.regs.seq.runsFrame = false ∨ s.regs.fe = .idle) :
    runFrame ab db s = .fault .noTransition := by
  obtain hq | hf := h
  · simp [runFrame, hq]
  · cases hq : s.regs.seq.runsFrame <;> simp [runFrame, hq, hf]

/-- A frame run by itself, whatever its two bytes: from `F_SELECT` its exchanges and `CsHigh`, from `F_RELEASE` all four
events (R60). -/
theorem runFrame_done {r b : Byte} (hq : s.regs.seq.runsFrame = true) (h : s.Answers [r, b]) :
    (s.regs.fe = .select → runFrame ab db s = .next
      { regs := { s.regs with fe := .release, rx := b, rspValid := false }
        env := s.env.dropAnswers 2
        trace := s.trace ++ [.x ab r, .x db b, .csHigh] }) ∧
    (s.regs.fe = .release → runFrame ab db s = .next
      { regs := { s.regs with fe := .release, rx := b, rspValid := false }
        env := s.env.dropAnswers 2
        trace := s.trace ++ frameEvents ab r db b }) := by
  obtain ⟨h0, h1⟩ := h.two
  constructor <;> intro hf
  · rw [runFrame_of_select ab db hq hf, State.frameSelected_done s.quiet ab db r b h0 h1]
    rfl
  · rw [runFrame_of_release ab db hq hf, State.frame_done s.quiet s.regs.seq ab db r b h0 h1]
    rfl

end

/-- Settles O9: the frame of `0 ‖ a` and the dummy byte. -/
theorem readFrameResult : Obligations.ReadFrameResult :=
  fun _ a _ _ hq h => runFrame_done (addressByte 0#1 a) params.dummyByte hq h

/-- Settles O10: the frame of `1 ‖ a` and `d`. -/
theorem writeFrameResult : Obligations.WriteFrameResult :=
  fun _ a d _ _ hq h => runFrame_done (addressByte 1#1 a) d hq h

/-- Settles O11: both instructions run one frame, which stops alike whatever its bytes. -/
theorem framesStopElsewhere : Obligations.FramesStopElsewhere := by
  rintro s i (⟨a, rfl⟩ | ⟨a, d, rfl⟩)
  · exact ⟨fun ⟨hq, hf⟩ => runFrame_of_inProgress _ _ hq hf, runFrame_of_excluded _ _⟩
  · exact ⟨fun ⟨hq, hf⟩ => runFrame_of_inProgress _ _ hq hf, runFrame_of_excluded _ _⟩

/-! ### RDREG and WRREG -/

/-- Settles O12: from the latched state the read frame ends, and the byte left in `RX` is the response. -/
theorem rdregResult : Obligations.RdregResult := by
  intro s kind ign addr wdata r b hi h
  obtain ⟨h0, h1⟩ := h.two
  have hf := State.frame_done_afterFrame (s.latch 0x1#4 kind addr wdata).quiet .rdreg (addressByte 0#1 addr) 0xFF#8 r b
    finishRdreg h0 h1
  exact ⟨rfl, (execRdreg_of_idle kind ign addr wdata s hi).trans (congrArg _ hf)⟩

/-- Settles O13: from the latched state the write frame ends, and nothing of it is in the response. -/
theorem wrregResult : Obligations.WrregResult := by
  intro s kind ign addr wdata r b hi h
  obtain ⟨h0, h1⟩ := h.two
  have hf := State.frame_done_afterFrame (s.latch 0x2#4 kind addr wdata).quiet .wrreg (addressByte 1#1 addr) wdata r b
    finishWrreg h0 h1
  exact ⟨rfl, (execWrreg_of_idle kind ign addr wdata s hi).trans (congrArg _ hf)⟩

/-! ### What the operations of the bus leave unchanged -/

/-- The exchanges of a frame, whether they end it or wait, write only the phase and `RX`. -/
theorem State.frameSelected_keeps (s : State) (ab db : Byte) : ∃ f b n tr, s.frameSelected ab db =
    { regs := { s.regs with fe := f, rx := b }, env := s.env.dropAnswers n, trace := tr } := by
  obtain ⟨_, _, -, -, h⟩ | ⟨-, h⟩ | ⟨_, -, -, h⟩ := s.frameSelected_cases ab db
  all_goals exact ⟨_, _, _, _, h⟩

/-- A frame run in `q` writes besides only the sequencer state. -/
theorem State.frame_keeps (s : State) (q : SeqState) (ab db : Byte) : ∃ f b n tr, s.frame q ab db =
    { regs := { s.regs with seq := q, fe := f, rx := b }, env := s.env.dropAnswers n, trace := tr } :=
  (s.start q).frameSelected_keeps ab db

/-- RD_FRAME and WR_FRAME write only the phase, `RX` and `rsp_valid`. -/
theorem runFrame_keeps {ab db : Byte} {s t : State} (h : runFrame ab db s = .next t) : ∃ f b n tr,
    t = { regs := { s.regs with fe := f, rx := b, rspValid := false }, env := s.env.dropAnswers n, trace := tr } := by
  obtain ⟨-, -, h'⟩ | ⟨-, -, h'⟩ | ⟨_, h'⟩ := runFrame_cases ab db s <;> cases h'.symm.trans h
  · exact s.quiet.frameSelected_keeps ab db
  · exact s.quiet.frame_keeps s.regs.seq ab db

/-- What an operation of the bus leaves of `s` in `t`: of the environment it uses the exchange port alone, it writes neither
the RTD registers nor the latched fields, and the response registers only as it responds. -/
structure State.BusKeeps (s t : State) : Prop where
  env : ∃ n, t.env = s.env.dropAnswers n
  rtd : t.regs.lsb = s.regs.lsb ∧ t.regs.msb = s.regs.msb
  latched : t.regs.op = s.regs.op ∧ t.regs.kind = s.regs.kind ∧ t.regs.addr = s.regs.addr ∧
    t.regs.wdata = s.regs.wdata
  held : t.regs.rspValid = false →
    s.regs.rspValid = false ∧ t.regs.rspStatus = s.regs.rspStatus ∧ t.regs.rspData = s.regs.rspData

theorem State.BusKeeps.trans {s t u : State} (h : s.BusKeeps t) (h' : t.BusKeeps u) : s.BusKeeps u where
  env := by
    obtain ⟨n, hn⟩ := h.env
    obtain ⟨m, hm⟩ := h'.env
    exact ⟨n + m, by rw [hm, hn, Env.dropAnswers_dropAnswers]⟩
  rtd := by rw [h'.rtd.1, h'.rtd.2]; exact h.rtd
  latched := by
    obtain ⟨ho, hk, ha, hw⟩ := h'.latched
    rw [ho, hk, ha, hw]
    exact h.latched
  held hv := by
    obtain ⟨hv, hs, hd⟩ := h'.held hv
    rw [hs, hd]
    exact h.held hv

theorem State.busKeeps_respond (s : State) (st : Status) (d : RspData) : s.BusKeeps (s.respond st d) :=
  ⟨⟨0, rfl⟩, ⟨rfl, rfl⟩, ⟨rfl, rfl, rfl, rfl⟩, nofun⟩

theorem State.busKeeps_frame (s : State) (q : SeqState) (ab db : Byte) : s.BusKeeps (s.frame q ab db) := by
  obtain ⟨f, b, n, tr, h⟩ := s.frame_keeps q ab db
  rw [h]
  exact ⟨⟨n, rfl⟩, ⟨rfl, rfl⟩, ⟨rfl, rfl, rfl, rfl⟩, fun hv => ⟨hv, rfl, rfl⟩⟩

/-- A frame and what follows it keep what both keep; a frame that waits is followed by nothing. -/
theorem State.busKeeps_frame_afterFrame {k : State → State} (hk : ∀ t : State, t.BusKeeps (k t)) (s : State)
    (q : SeqState) (ab db : Byte) : s.BusKeeps ((s.frame q ab db).afterFrame k) := by
  have hs := s.busKeeps_frame q ab db
  by_cases hf : (s.frame q ab db).regs.fe = .release
  · rw [State.afterFrame_of_release _ _ hf]
    exact hs.trans (hk _)
  · rwa [State.afterFrame_of_not_release _ _ hf]

/-- INIT from the end of each of its frames, from the last to the first (R80). -/
theorem afterInitLL_busKeeps (s : State) : s.BusKeeps (afterInitLL s) := s.busKeeps_respond _ _
theorem afterInitLM_busKeeps (s : State) : s.BusKeeps (afterInitLM s) :=
  State.busKeeps_frame_afterFrame afterInitLL_busKeeps s _ _ _
theorem afterInitHL_busKeeps (s : State) : s.BusKeeps (afterInitHL s) :=
  State.busKeeps_frame_afterFrame afterInitLM_busKeeps s _ _ _
theorem afterInitHM_busKeeps (s : State) : s.BusKeeps (afterInitHM s) :=
  State.busKeeps_frame_afterFrame afterInitHL_busKeeps s _ _ _
theorem afterInitCR_busKeeps (s : State) : s.BusKeeps (afterInitCR s) := by
  rw [afterInitCR_eq]
  split_ifs
  · exact State.busKeeps_frame_afterFrame afterInitHM_busKeeps s _ _ _
  · exact s.busKeeps_respond _ _
theorem afterInitCW_busKeeps (s : State) : s.BusKeeps (afterInitCW s) :=
  State.busKeeps_frame_afterFrame afterInitCR_busKeeps s _ _ _

/-- How RDREG, WRREG, INIT, HASFLT or a frame leads from `s` to `t`: a frame writes only the phase, `RX` and `rsp_valid`,
a command accepted keeps what its operation keeps of the latched state, and a busy block keeps everything. -/
inductive BusStep (i : Instr) (kind : Nibble) (ign : Bit) (addr : Addr) (wdata : Byte) (s t : State) : Prop
  | frame (noCommand : isCommand i = false)
      (next : ∃ f b n tr, t =
        { regs := { s.regs with fe := f, rx := b, rspValid := false }, env := s.env.dropAnswers n, trace := tr })
  | accepted (command : isCommand i = true) (op : Nibble) (code : encode i = .cmd (packCmd op kind ign addr wdata))
      (keeps : (s.latch op kind addr wdata).quiet.BusKeeps t)
  | ignored (busy : s.regs.seq ≠ .idle) (next : t = s)

section
variable {i : Instr} {s t : State} {kind : Nibble} {ign : Bit} {addr : Addr} {wdata : Byte}

/-- A command whose operation begins with a frame, by what follows the frame. -/
theorem busStep_of_accept {op : Nibble} {q : SeqState} {ab db : Byte} {k : State → State} (hc : isCommand i = true)
    (he : encode i = .cmd (packCmd op kind ign addr wdata)) (hk : ∀ t : State, t.BusKeeps (k t))
    (h : accept op kind addr wdata (fun s => (s.frame q ab db).afterFrame k) s = .next t) :
    BusStep i kind ign addr wdata s t := by
  obtain ⟨-, h'⟩ | ⟨-, -, h'⟩ | ⟨hb, h'⟩ := accept_cases op kind addr wdata _ s <;> cases h'.symm.trans h
  · exact .accepted hc op he (State.busKeeps_frame_afterFrame hk _ q ab db)
  · exact .ignored hb rfl

/-- Everything a bus command or a frame can do, from any state. -/
theorem busStep_of_exec {a : Addr} {d : Byte}
    (hi : i = .rdreg kind ign addr wdata ∨ i = .wrreg kind ign addr wdata ∨ i = .init kind ign addr wdata ∨
      i = .hasflt kind ign addr wdata ∨ i = .rdFrame a ∨ i = .wrFrame a d)
    (h : exec i s = .next t) : BusStep i kind ign addr wdata s t := by
  obtain rfl | rfl | rfl | rfl | rfl | rfl := hi
  · exact busStep_of_accept rfl rfl (fun t => t.busKeeps_respond _ _) h
  · exact busStep_of_accept rfl rfl (fun t => t.busKeeps_respond _ _) h
  · exact busStep_of_accept rfl rfl afterInitCW_busKeeps h
  · exact busStep_of_accept rfl rfl (fun t => t.busKeeps_respond _ _) h
  · exact .frame rfl (runFrame_keeps h)
  · exact .frame rfl (runFrame_keeps h)

end

/-- Settles O27: by the way the instruction leads to its next state. -/
theorem busCommandsFrame : Obligations.BusCommandsFrame := by
  intro i s t kind ign addr a wdata d hi h
  cases busStep_of_exec hi h with
  | frame hc ht =>
    obtain ⟨f, b, n, tr, rfl⟩ := ht
    exact ⟨rfl, rfl, rfl, rfl, rfl, rfl, fun _ => ⟨rfl, rfl, rfl, rfl, rfl, rfl, rfl⟩, by simp [hc]⟩
  | accepted hc op he ht =>
    obtain ⟨n, hn⟩ := ht.env
    obtain ⟨ho, hk, ha, hw⟩ := ht.latched
    have hop : cmdOp (packCmd op kind ign addr wdata) = op := (packCmd_fields op kind ign addr wdata).1
    rw [hn]
    exact ⟨ht.rtd.1, ht.rtd.2, rfl, rfl, rfl, rfl, by simp [hc],
      fun _ _ => ⟨⟨_, he, ho.trans hop.symm⟩, hk, ha, hw, fun hv => (ht.held hv).2⟩⟩
  | ignored hb ht =>
    subst ht
    exact ⟨rfl, rfl, rfl, rfl, rfl, rfl, fun _ => ⟨rfl, rfl, rfl, rfl, rfl, rfl, rfl⟩, fun _ hidle => absurd hidle.1 hb⟩

end Sys2Proof.Machine
end

section
/-! Initialization and Link Verification (spec/41_init.md): INIT, frame by frame from the last to the first. What is left
of the operation after each of its frames is described once; INIT from idle and INIT that waited are read off. -/

namespace Sys2Proof.Machine

/-- The samples after the first `n` are answered by the rest of the bytes. -/
theorem State.Answers.drop {s t : State} {bs : List Byte} (h : s.Answers bs) (n : Nat)
    (he : t.env = s.env.dropAnswers n) : t.Answers (bs.drop n) := by
  intro k b hk
  rw [he, Env.dropAnswers_answerAt]
  exact h (n + k) b (by rwa [List.getElem?_drop] at hk)

/-- `s` with the operation in progress ended: `n` samples of the exchange port used, `rx` left in `RX`, the events `es`
added, and the response given (R131). -/
def State.endedBy (s : State) (rx : Byte) (n : Nat) (es : List Event) (st : Status) (d : RspData) : State where
  regs := { s.regs with
    seq := .idle, fe := .idle, rx := rx, rspValid := true, rspStatus := st, rspData := d }
  env := s.env.dropAnswers n
  trace := s.trace ++ es

/-- After a frame that left the byte `b` in `RX`, and with the bytes `bs` answered to it, `k` is the rest of an operation
that uses just those bytes, has the events `es` and ends with the response, leaving `rx` in `RX`. -/
def EndsBy (k : State → State) (b : Byte) (bs : List Byte) (rx : Byte) (es : List Event) (st : Status)
    (d : RspData) : Prop :=
  ∀ s : State, s.regs.rx = b → s.Answers bs → k s = s.endedBy rx bs.length es st d

/-- A response at once ends the operation with no exchange (R131). -/
theorem EndsBy.respond {k : State → State} {b : Byte} {st : Status} {d : RspData}
    (hk : ∀ s : State, s.regs.rx = b → k s = s.respond st d) : EndsBy k b [] b [.rsp st d] st d := by
  rintro s rfl -
  exact hk s rfl

section
variable {k l : State → State} {c b rx : Byte} {bs : List Byte} {es : List Event} {st : Status} {d : RspData}

/-- A frame before the rest of the operation: its two bytes and its four events come first (R60). -/
theorem EndsBy.frame (h : EndsBy k b bs rx es st d) {q : SeqState} {ab db r : Byte}
    (hl : ∀ s : State, s.regs.rx = c → l s = (s.frame q ab db).afterFrame k) :
    EndsBy l c (r :: b :: bs) rx (frameEvents ab r db b ++ es) st d := by
  intro s hc ha
  rw [hl s hc, State.frame_done_afterFrame s q ab db r b k (ha 0 r rfl) (ha 1 b rfl), h _ rfl (ha.drop 2 rfl)]
  simp [State.endedBy, Nat.add_comm 2]

/-- The operation that waited in `F_DATA` of a frame ends in the step that completes the exchange (R115, R116). What the
sequencer state `q` sends and what follows its frame is asked of states that are in `q` by construction. -/
theorem EndsBy.step (h : EndsBy k b bs rx es st d) {s : State} {q : SeqState} {db : Byte}
    (hr : (s.env.callerAt 0).rst = false) (hf : s.regs.fe = .data) (hq : s.regs.seq = q) (hrun : q.runsFrame = true)
    (hd : ∀ r : Regs, { r with seq := q }.dbyte = db)
    (hk : ∀ t : State, afterRelease (t.setPc q t.regs.fe) = k (t.setPc q t.regs.fe)) (ha : s.Answers (b :: bs)) :
    ∃ t, step s = .next t ∧ t.Idle ∧ t.trace = s.trace ++ ([.x db b, .csHigh] ++ es) := by
  subst hq
  have hrest : ∀ t : State, t.regs.seq = s.regs.seq → afterRelease t = k t := fun t ht => by
    rw [← ht] at hk
    exact hk t
  have hsent : s.regs.dbyte = db := hd s.regs
  have hleft : ∀ t : State, t.env = s.env.popCaller.dropAnswers 1 → t.Answers bs := fun t ht =>
    State.Answers.drop (s := s.setEnv s.env.popCaller) ha 1 ht
  refine ⟨_, step_of_data_done s b hr hrun hf (ha 0 b rfl), ?_⟩
  rw [hrest _ (by rfl), h _ rfl (hleft _ rfl), hsent]
  exact ⟨⟨rfl, rfl⟩, List.append_assoc _ _ _⟩

end

/-! ### What is left of INIT after each of its frames -/

section
variable {b r1 b1 r2 r3 b3 r4 b4 r5 b5 r6 b6 rx : Byte} {bs : List Byte} {es : List Event} {st : Status} {d : RspData}

/-- After frame 6 INIT responds (R80). -/
theorem afterInitLL_ends : EndsBy afterInitLL b [] b [.rsp .ok 0x0001#16] .ok 0x0001#16 :=
  .respond fun _ _ => rfl

/-- After frame 5 the low threshold LSB is left (R80). -/
theorem afterInitLM_ends : EndsBy afterInitLM b [r6, b6] b6
    (frameEvents 0x86#8 r6 0x00#8 b6 ++ [.rsp .ok 0x0001#16]) .ok 0x0001#16 :=
  afterInitLL_ends.frame fun s _ => afterInitLM_eq s

/-- After frame 4 the low threshold is left (R80). -/
theorem afterInitHL_ends : EndsBy afterInitHL b [r5, b5, r6, b6] b6
    (frameEvents 0x85#8 r5 0x00#8 b5 ++ (frameEvents 0x86#8 r6 0x00#8 b6 ++ [.rsp .ok 0x0001#16])) .ok 0x0001#16 :=
  afterInitLM_ends.frame fun s _ => afterInitHL_eq s

/-- After frame 3 the last three threshold frames are left (R80). -/
theorem afterInitHM_ends : EndsBy afterInitHM b [r4, b4, r5, b5, r6, b6] b6
    (frameEvents 0x84#8 r4 0xFF#8 b4 ++ (frameEvents 0x85#8 r5 0x00#8 b5 ++ (frameEvents 0x86#8 r6 0x00#8 b6 ++
      [.rsp .ok 0x0001#16]))) .ok 0x0001#16 :=
  afterInitHL_ends.frame fun s _ => afterInitHM_eq s

/-- After the read-back `0x80` the four threshold frames follow (R81, R82). -/
theorem afterInitCR_ends_verified : EndsBy afterInitCR 0x80#8 [r3, b3, r4, b4, r5, b5, r6, b6] b6
    (frameEvents 0x83#8 r3 0xFF#8 b3 ++ (frameEvents 0x84#8 r4 0xFF#8 b4 ++ (frameEvents 0x85#8 r5 0x00#8 b5 ++
      (frameEvents 0x86#8 r6 0x00#8 b6 ++ [.rsp .ok 0x0001#16])))) .ok 0x0001#16 :=
  afterInitHM_ends.frame fun s hx => (afterInitCR_eq s).trans (if_pos hx)

/-- After any other read-back no frame follows (R81, R82). -/
theorem afterInitCR_ends_failed (h : b ≠ 0x80#8) :
    EndsBy afterInitCR b [] b [.rsp .linkFail 0x0000#16] .linkFail 0x0000#16 :=
  .respond fun s hx => (afterInitCR_eq s).trans (if_neg (hx ▸ h))

/-- After frame 1 the configuration register is read back, whatever follows then (R80). -/
theorem EndsBy.readBack (h : EndsBy afterInitCR b bs rx es st d) :
    EndsBy afterInitCW b1 (r2 :: b :: bs) rx (frameEvents 0x00#8 r2 0xFF#8 b ++ es) st d :=
  h.frame fun s _ => afterInitCW_eq s

/-- INIT from idle: frame 1, then what is left of INIT after it (R80, R112). -/
theorem EndsBy.exec_init (h : EndsBy afterInitCW b1 bs rx es st d) {s : State} (hi : s.Idle) (kind : Nibble)
    (ign : Bit) (addr : Addr) (wdata : Byte) (ha : s.Answers (r1 :: b1 :: bs)) :
    exec (.init kind ign addr wdata) s = .next ((s.latch 0x3#4 kind addr wdata).quiet.endedBy rx
      (bs.length + 2) (frameEvents 0x80#8 r1 0x80#8 b1 ++ es) st d) :=
  (execInit_of_idle kind ign addr wdata s hi).trans (congrArg _ (h.frame (fun _ _ => rfl) _ rfl ha))

end

/-- Settles O14: frame 1, the read-back, and then by its byte the threshold frames or none. -/
theorem initResult : Obligations.InitResult := by
  intro s kind ign addr wdata r1 b1 r2 rb r3 b3 r4 b4 r5 b5 r6 b6 hi
  exact ⟨rfl, fun ha => afterInitCR_ends_verified.readBack.exec_init hi kind ign addr wdata ha,
    fun ha hb => (afterInitCR_ends_failed hb).readBack.exec_init hi kind ign addr wdata ha⟩

/-! ### INIT that waited -/

/-- Settles O54: in each sequencer state of INIT the frame in progress ends and what is left of INIT follows. -/
theorem initGoesOn : Obligations.InitGoesOn := by
  rintro s b r2 r3 b3 r4 b4 r5 b5 r6 b6 _ _ _ _ hf hr rfl rfl rfl rfl
  simp only [List.append_assoc]
  exact ⟨fun hq ha => afterInitCR_ends_verified.readBack.step hr hf hq rfl (fun _ => rfl) (fun _ => rfl) ha,
    fun hq ha => afterInitCR_ends_verified.step hr hf hq rfl (fun _ => rfl) (fun _ => rfl) ha,
    fun hq ha hb => (afterInitCR_ends_failed hb).step hr hf hq rfl (fun _ => rfl) (fun _ => rfl) ha,
    fun hq ha => afterInitHM_ends.step hr hf hq rfl (fun _ => rfl) (fun _ => rfl) ha,
    fun hq ha => afterInitHL_ends.step hr hf hq rfl (fun _ => rfl) (fun _ => rfl) ha,
    fun hq ha => afterInitLM_ends.step hr hf hq rfl (fun _ => rfl) (fun _ => rfl) ha,
    fun hq ha => afterInitLL_ends.step hr hf hq rfl (fun _ => rfl) (fun _ => rfl) ha⟩

end Sys2Proof.Machine
end

section
/-! Fault Check (spec/42_fault_check.md): HASFLT, the read frame of the RTD LSB register and what is left after it. -/

namespace Sys2Proof.Machine

/-- After its one frame HASFLT responds with what masking with `0x01` leaves of the byte received (R85, R86). -/
theorem finishHasflt_ends {l : Byte} :
    EndsBy finishHasflt l [] l [.rsp .ok ((l &&& 0x01#8).setWidth 16)] .ok ((l &&& 0x01#8).setWidth 16) := by
  refine .respond fun s hx => ?_
  rw [← hx, ← faultBit_setWidth]
  rfl

/-- Settles O15: from the latched state the frame of the RTD LSB register ends, and then the response. -/
theorem hasfltResult : Obligations.HasfltResult := by
  intro s kind ign addr wdata r l hi ha
  have hrun : ((s.latch 0x4#4 kind addr wdata).quiet.frame .hasflt 0x02#8 0xFF#8).afterFrame finishHasflt =
      (s.latch 0x4#4 kind addr wdata).quiet.endedBy l 2
        (frameEvents 0x02#8 r 0xFF#8 l ++ [.rsp .ok ((l &&& 0x01#8).setWidth 16)]) .ok
        ((l &&& 0x01#8).setWidth 16) :=
    finishHasflt_ends.frame (fun _ _ => rfl) _ rfl ha
  exact ⟨rfl, (execHasflt_of_idle kind ign addr wdata s hi).trans (congrArg _ hrun)⟩

end Sys2Proof.Machine
end

section
/-! The conversion pipeline (spec/43_measure.md R94 to R97): the assembly of the raw code, and the temperature in the width
of 20 bits or more and in the 16 bits of the response. -/

namespace Sys2Proof.Machine

/-! ### The raw code -/

/-- The part of the LSB byte in the raw code lies below the MSB byte (R94). -/
theorem lsb_part_lt (l : Byte) : (l.toNat &&& 0xFE) >>> 1 < 2 ^ 7 := by
  have h : l.toNat &&& 0xFE ≤ 0xFE := Nat.and_le_right
  rw [Nat.shiftRight_eq_div_pow]
  omega

/-- Bit 0 of the LSB byte is not among the bits of the raw code (R94). -/
theorem extractLsb'_xor_one (l : Byte) : (l ^^^ 0x01#8).extractLsb' 1 7 = l.extractLsb' 1 7 := by
  rw [BitVec.extractLsb'_xor]
  exact BitVec.xor_zero

/-- The upper seven bits of a byte leave two choices for it. -/
theorem byte_cases (l : Byte) :
    l = l.extractLsb' 1 7 ++ 0#1 ∨ l = (l.extractLsb' 1 7 ++ 0#1 : Byte) ^^^ 0x01#8 := by
  revert l; decide

/-- The bytes of a raw code (R94). -/
theorem rawCode_eq_iff (m l : Byte) (raw : RawCode) :
    rawCode m l = raw ↔ m = raw.extractLsb' 7 8 ∧ l.extractLsb' 1 7 = raw.extractLsb' 0 7 := by
  constructor
  · rintro rfl
    exact ⟨BitVec.extractLsb'_append_eq_left.symm, BitVec.extractLsb'_append_eq_right.symm⟩
  · rintro ⟨rfl, hl⟩
    rw [rawCode, hl]
    exact (BitVec.extractLsb'_append_extractLsb'_eq_extractLsb' (by rfl)).trans BitVec.extractLsb'_eq_self

/-- The response data of a raw code is the same number (R94). -/
theorem rawData_toNat (raw : RawCode) : (rawData raw).toNat = raw.toNat :=
  BitVec.toNat_setWidth_of_le (by decide)

/-- The response data of the raw code of two bytes, as a number (R94). -/
theorem rawData_rawCode (m l : Byte) :
    rawData (rawCode m l) = BitVec.ofNat 16 ((m.toNat <<< 7) ||| ((l.toNat &&& 0xFE) >>> 1)) := by
  rw [← rawCode_toNat, BitVec.ofNat_toNat, rawData]

/-- Settles O19: the number of a raw code is known, and so are the bytes it comes from. -/
theorem rawCodeAssembly : Obligations.RawCodeAssembly := by
  refine ⟨rawCode_toNat, fun m l => ⟨rfl, ?_⟩, fun m l => ⟨?_, ?_⟩, fun raw => ?_⟩
  · rw [rawCode, rawCode, extractLsb'_xor_one]
  · rw [rawData_toNat, rawCode_toNat, Nat.shiftLeft_add_eq_or_of_lt (lsb_part_lt l)]
  · rw [rawData, BitVec.getLsbD_setWidth, BitVec.getLsbD_of_ge _ _ (le_refl 15), Bool.and_false]
  · refine ⟨raw.extractLsb' 7 8, raw.extractLsb' 0 7 ++ 0#1, ?_, fun m l h => ?_⟩
    · exact (rawCode_eq_iff _ _ raw).2 ⟨rfl, BitVec.extractLsb'_append_eq_left⟩
    · obtain ⟨hm, hl⟩ := (rawCode_eq_iff m l raw).1 h
      exact ⟨hm, hl ▸ byte_cases l⟩

/-! ### The temperature -/

/-- The shift is the floor of the division by 32 (R95). -/
theorem temperatureTenths_eq_floor (raw : RawCode) :
    temperatureTenths raw = ((10 * raw.toNat / 32 : Nat) : Int) - 2560 := by
  rw [temperatureTenths_eq, Nat.shiftRight_eq_div_pow]

/-- The 15 bits of a raw code bound the temperature from both sides (R97). -/
theorem temperatureTenths_bounds (raw : RawCode) :
    -2560 ≤ temperatureTenths raw ∧ temperatureTenths raw ≤ 7679 := by
  have h := raw.isLt
  rw [temperatureTenths_eq_floor]
  omega

/-- The 16-bit response loses nothing (R96, R97). -/
theorem temperatureData_toInt (raw : RawCode) : (temperatureData raw).toInt = temperatureTenths raw := by
  obtain ⟨hl, hu⟩ := temperatureTenths_bounds raw
  exact BitVec.toInt_ofInt_eq_self (by decide) (by omega) (by omega)

section
variable {w : Nat} (hw : 20 ≤ w)
include hw

/-- What fits a signed width of 20 bits fits every larger one (R96). -/
theorem toInt_ofInt_of_twenty_le {x : Int} (hl : -2 ^ 19 ≤ x) (hu : x < 2 ^ 19) : (BitVec.ofInt w x).toInt = x := by
  have h : (2 : Int) ^ 19 ≤ 2 ^ (w - 1) := pow_le_pow_right₀ (by decide) (by omega)
  exact BitVec.toInt_ofInt_eq_self (by omega) (by omega) (by omega)

/-- The numbers of the computation in particular (R96). -/
theorem toInt_ofNat_of_twenty_le {n : Nat} (h : n < 2 ^ 19) : (BitVec.ofNat w n).toInt = n := by
  rw [← BitVec.ofInt_natCast]
  exact toInt_ofInt_of_twenty_le hw (by omega) (by omega)

/-- No step of the computation in a signed width of 20 bits or more overflows or wraps: the product is that of the numbers,
the shift is the floor of it, and the difference is in range (R96). -/
theorem temperature_toInt (raw : RawCode) :
    ((BitVec.ofNat w 10 * raw.setWidth w).sshiftRight 5 - BitVec.ofNat w 2560).toInt = temperatureTenths raw := by
  have hraw := raw.isLt
  obtain ⟨hl, hu⟩ := temperatureTenths_bounds raw
  have hproduct : (BitVec.ofNat w 10 * raw.setWidth w).toInt = ((10 * raw.toNat : Nat) : Int) := by
    rw [← BitVec.ofNat_toNat, ← BitVec.ofNat_mul]
    exact toInt_ofNat_of_twenty_le hw (by omega)
  rw [BitVec.toInt_sub, BitVec.toInt_sshiftRight, hproduct, toInt_ofNat_of_twenty_le hw (by decide),
    ← Int.natCast_shiftRight, ← BitVec.toInt_ofInt]
  exact toInt_ofInt_of_twenty_le hw (by omega) (by omega)

end

/-- Settles O20: the formula, its floor, the wide computation and the narrowed response. -/
theorem temperatureFormula : Obligations.TemperatureFormula := by
  intro raw
  have h := raw.isLt
  exact ⟨temperatureTenths_eq raw, temperatureTenths_eq_floor raw, by omega, by decide,
    fun _ hw => temperature_toInt hw raw, rfl, temperatureData_toInt raw⟩

/-- Settles O21: by the floor of R95, of which the two ends are evaluated. -/
theorem temperatureRange : Obligations.TemperatureRange := by
  refine ⟨fun raw => ?_, by decide, by decide, by decide, by decide, fun a b hab => ?_, fun a b hab => ?_⟩
  · obtain ⟨hl, hu⟩ := temperatureTenths_bounds raw
    have hf := temperatureTenths_eq_floor raw
    exact ⟨hl, hu, by omega, by omega, temperatureData_toInt raw⟩
  · rw [temperatureTenths_eq_floor, temperatureTenths_eq_floor]
    omega
  · rw [temperatureTenths_eq_floor, temperatureTenths_eq_floor, hab]
    omega

end Sys2Proof.Machine
end

section
/-! Acquisition and Conversion (spec/43_measure.md): what RDMEAS answers, that its two kinds agree, and what it leaves
unchanged. -/

namespace Sys2Proof.Machine

/-! ### The beginning of a measurement -/

/-- RDMEAS accepted with a recognised kind: the fields latched, and the data-ready sample ahead (R91, R112). -/
def State.measuring (s : State) (kind : Nibble) (addr : Addr) (wdata : Byte) : State :=
  (s.latch 0x5#4 kind addr wdata).quiet.setPc .measChk .idle

section
variable {i : Instr} {kind : Nibble} {ign : Bit} {addr : Addr} {wdata : Byte} {s : State} (hidle : s.Idle)
  (hi : i.expand = .rdmeas kind ign addr wdata)
include hidle hi

/-- RDMEAS, RDRAW or RDTEMP of a recognised kind from idle goes on to the ready check (R90, R91). -/
theorem exec_of_recognised (hk : kindRecognised kind = true) :
    exec i s = .next (checkReady (s.measuring kind addr wdata)) := by
  rw [exec_of_expand_rdmeas i kind ign addr wdata s hidle hi, startMeasurement_of_recognised _ hk]
  rfl

/-- RDMEAS of any other kind from idle responds at once (R91). -/
theorem exec_of_unrecognised (hk : kindRecognised kind = false) :
    exec i s = .next ((s.latch 0x5#4 kind addr wdata).quiet.respond .invalidKind 0x0000#16) := by
  rw [exec_of_expand_rdmeas i kind ign addr wdata s hidle hi, startMeasurement_of_unrecognised _ hk]

end

/-! ### The end of a measurement -/

/-- The status of a measurement whose RTD LSB byte is `l` (R93). -/
def measuredStatus (l : Byte) : Status := if faultBit l = 1#1 then .fault else .ok

/-- The response data of a measurement of a recognised kind, from its two bytes (R93, R94, R95). -/
def measuredData (kind : Nibble) (m l : Byte) : RspData :=
  if faultBit l = 1#1 then 0x0000#16
  else if kind = 0x0#4 then rawData (rawCode m l)
  else temperatureData (rawCode m l)

section
variable {l : Byte}

theorem measuredStatus_of_fault (h : faultBit l = 1#1) : measuredStatus l = .fault := if_pos h

theorem measuredData_of_fault (h : faultBit l = 1#1) (kind : Nibble) (m : Byte) : measuredData kind m l = 0x0000#16 :=
  if_pos h

theorem measuredStatus_eq_ok_iff : measuredStatus l = .ok ↔ faultBit l ≠ 1#1 := by
  simp [measuredStatus]

theorem measuredData_of_no_fault (h : faultBit l ≠ 1#1) (kind : Nibble) (m : Byte) :
    measuredData kind m l = if kind = 0x0#4 then rawData (rawCode m l) else temperatureData (rawCode m l) :=
  if_neg h

end

/-- After the RTD MSB frame the kind and the two bytes determine the response (R93 to R95, R101). -/
theorem afterMeasMsb_eq {s : State} (hk : kindRecognised s.regs.kind = true) :
    afterMeasMsb s = (s.setMsb s.regs.rx).respond (measuredStatus s.regs.lsb)
      (measuredData s.regs.kind s.regs.rx s.regs.lsb) := by
  by_cases hf : faultBit s.regs.lsb = 1#1
  · rw [afterMeasMsb_of_fault s hf, measuredStatus_of_fault hf, measuredData_of_fault hf]
    rfl
  · rw [measuredStatus_eq_ok_iff.2 hf, measuredData_of_no_fault hf]
    obtain k | k := (kindRecognised_iff _).1 hk
    · rw [afterMeasMsb_of_raw s hf k, if_pos k]
      rfl
    · rw [afterMeasMsb_of_temp s hf k, if_neg (by rw [k]; decide)]
      rfl

/-! ### Every outcome -/

/-- After the RTD LSB frame, with the RTD MSB frame answered (R100, R101). -/
theorem afterMeasLsb_done {s : State} {r m : Byte} (hk : kindRecognised s.regs.kind = true) (ha : s.Answers [r, m]) :
    afterMeasLsb s = ((s.setLsb s.regs.rx).setMsb m).endedBy m 2
      (frameEvents 0x01#8 r 0xFF#8 m ++
        [.rsp (measuredStatus s.regs.rx) (measuredData s.regs.kind m s.regs.rx)])
      (measuredStatus s.regs.rx) (measuredData s.regs.kind m s.regs.rx) := by
  obtain ⟨h0, h1⟩ := ha.two
  rw [afterMeasLsb_eq, State.frame_done_afterFrame (s.setLsb s.regs.rx) _ _ _ r m _ h0 h1, afterMeasMsb_eq (by exact hk)]
  simp [State.endedBy, State.respond, State.setMsb]

/-- With data ready and all four exchanges answered: one data-ready sample, the two frames, and the response (R90, R100). -/
theorem checkReady_done {s : State} {r1 l r2 m : Byte} (hk : kindRecognised s.regs.kind = true)
    (hd : s.env.levelAt 0 = 0#1) (ha : s.Answers [r1, l, r2, m]) :
    checkReady s = (((s.setEnv s.env.popLevel).setLsb l).setMsb m).endedBy m 4
      ([.d 0#1] ++ frameEvents 0x02#8 r1 0xFF#8 l ++ frameEvents 0x01#8 r2 0xFF#8 m ++
        [.rsp (measuredStatus l) (measuredData s.regs.kind m l)])
      (measuredStatus l) (measuredData s.regs.kind m l) := by
  rw [checkReady_of_ready s hd,
    State.frame_done_afterFrame ((s.setEnv s.env.popLevel).log (.d 0#1)) _ _ _ r1 l _ (ha 0 r1 rfl) (ha 1 l rfl),
    afterMeasLsb_done (by exact hk) (State.Answers.drop (s := s.setEnv s.env.popLevel) ha 2 rfl)]
  simp [State.endedBy, State.setLsb, State.setMsb]

/-- Settles O16: the kind, then the data-ready level, then the two frames decide. -/
theorem rdmeasResult : Obligations.RdmeasResult := by
  intro i s kind ign addr wdata r1 l r2 m raw hidle hi hraw
  refine ⟨?_, fun h0 h1 => ?_, fun hk hd => ?_, fun hk hd ha => ?_⟩
  · rw [← encode_expand, hi]
    rfl
  · exact exec_of_unrecognised hidle hi ((kindRecognised_eq_false_iff kind).2 ⟨h0, h1⟩)
  · rw [exec_of_recognised hidle hi ((kindRecognised_iff kind).2 hk),
      checkReady_of_not_ready (s.measuring kind addr wdata) hd]
    rfl
  · have hk := (kindRecognised_iff kind).2 hk
    refine ⟨measuredStatus l, measuredData kind m l, ?_, fun hl => ?_, fun hl => ?_⟩
    · rw [exec_of_recognised hidle hi hk, checkReady_done (s := s.measuring kind addr wdata) hk hd ha]
      rfl
    · have hf := (faultBit_eq_one_iff l).2 hl
      exact ⟨measuredStatus_of_fault hf, measuredData_of_fault hf kind m⟩
    · have hf : faultBit l ≠ 1#1 := by
        rw [Ne, faultBit_eq_one_iff, hl]
        decide
      refine ⟨measuredStatus_eq_ok_iff.2 hf, ?_⟩
      rw [measuredData_of_no_fault hf, hraw, rawData_rawCode, ← rawCode_toNat]
      rfl

/-! ### The two kinds -/

/-- The same point of a measurement, with the kind Temperature. -/
def State.asTemperature (s : State) : State := { s with regs := { s.regs with kind := 0x1#4 } }

/-- A measurement of kind RawCode and one of kind Temperature stand at the same point, or have ended with the same events
and status, with the formula of R95 between their data if the status is `OK` (R99). -/
inductive KindsAgree : State → State → Prop
  | waits {s : State} (silent : s.regs.rspValid = false) : KindsAgree s s.asTemperature
  | ends {s : State} {st : Status} {d d' : RspData}
      (formula : st = .ok → d'.toInt = (((10 * d.toNat) >>> 5 : Nat) : Int) - 2560) :
      KindsAgree (s.respond st d) (s.asTemperature.respond st d')

section
variable {s : State} (hk : s.regs.kind = 0x0#4)
include hk

/-- The two responses to the same two bytes (R99). -/
theorem kindsAgree_afterMeasMsb : KindsAgree (afterMeasMsb s) (afterMeasMsb s.asTemperature) := by
  rw [afterMeasMsb_eq ((kindRecognised_iff _).2 (.inl hk)), afterMeasMsb_eq (s := s.asTemperature) rfl]
  refine .ends (s := s.setMsb s.regs.rx) fun hok => ?_
  have hf := measuredStatus_eq_ok_iff.1 hok
  have hraw : measuredData s.regs.kind s.regs.rx s.regs.lsb = rawData (rawCode s.regs.rx s.regs.lsb) :=
    (measuredData_of_no_fault hf _ _).trans (if_pos hk)
  have htemp : measuredData 0x1#4 s.regs.rx s.regs.lsb = temperatureData (rawCode s.regs.rx s.regs.lsb) :=
    measuredData_of_no_fault hf _ _
  rw [hraw, rawData_toNat]
  exact (congrArg BitVec.toInt htemp).trans (temperatureData_toInt _)

variable (hv : s.regs.rspValid = false)
include hv

/-- Whatever the partner does in the RTD MSB frame, it does to both (R99). -/
theorem kindsAgree_afterMeasLsb : KindsAgree (afterMeasLsb s) (afterMeasLsb s.asTemperature) := by
  rw [afterMeasLsb_eq, afterMeasLsb_eq]
  exact State.frame_afterFrame_induction₂ _ _ _ _ _ _ _ rfl
    (fun _ _ _ _ => kindsAgree_afterMeasMsb hk) (fun _ => .waits hv) (fun _ _ _ => .waits hv)

/-- Both kinds see the same data-ready level, and the partner does the same to both in the RTD LSB frame (R99). -/
theorem kindsAgree_checkReady : KindsAgree (checkReady s) (checkReady s.asTemperature) := by
  by_cases hd : s.env.levelAt 0 = 1#1
  · rw [checkReady_of_not_ready s hd, checkReady_of_not_ready s.asTemperature hd]
    exact .ends nofun
  · have hd0 := level_zero_of_ne_one hd
    rw [checkReady_of_ready s hd0, checkReady_of_ready s.asTemperature hd0]
    exact State.frame_afterFrame_induction₂ _ _ _ _ _ _ _ rfl
      (fun _ _ _ _ => kindsAgree_afterMeasLsb hk hv) (fun _ => .waits hv) (fun _ _ _ => .waits hv)

end

/-- From one idle state the two kinds agree (R99). -/
theorem exec_kindsAgree {s : State} (hidle : s.Idle) (ign : Bit) (addr : Addr) (wdata : Byte) :
    ∃ t u, exec (.rdmeas 0x0#4 ign addr wdata) s = .next t ∧ exec (.rdmeas 0x1#4 ign addr wdata) s = .next u ∧
      KindsAgree t u :=
  ⟨_, _, exec_of_recognised hidle rfl rfl, exec_of_recognised hidle rfl rfl,
    kindsAgree_checkReady (s := s.measuring 0x0#4 addr wdata) rfl rfl⟩

/-- Settles O18: the two states are at one point, or have ended alike. -/
theorem kindsConsistent : Obligations.KindsConsistent := by
  intro s ign addr wdata hidle
  obtain ⟨t, u, ht, hu, hagree⟩ := exec_kindsAgree hidle ign addr wdata
  refine ⟨t, u, ht, hu, ?_⟩
  cases hagree with
  | waits silent => exact ⟨rfl, rfl, rfl, rfl, fun _ => rfl, fun hv => absurd (silent.symm.trans hv) (by decide)⟩
  | ends formula => exact ⟨rfl, rfl, rfl, rfl, nofun, fun _ => ⟨_, rfl, rfl, rfl, formula⟩⟩

/-! ### What a measurement leaves unchanged -/

/-- What a part of a measurement that takes `j` data-ready samples leaves of `s` in `t`: the caller's script and the latched
fields, and the response registers unless it responds. -/
structure State.MeasureKeeps (j : Nat) (s t : State) : Prop where
  env : ∃ n, t.env = s.env.used n j
  latched : t.regs.op = s.regs.op ∧ t.regs.kind = s.regs.kind ∧ t.regs.addr = s.regs.addr ∧
    t.regs.wdata = s.regs.wdata
  held : t.regs.rspValid = false →
    s.regs.rspValid = false ∧ t.regs.rspStatus = s.regs.rspStatus ∧ t.regs.rspData = s.regs.rspData

/-- A part that only uses the bus keeps all of this. -/
theorem State.BusKeeps.measureKeeps {s t : State} (h : s.BusKeeps t) : s.MeasureKeeps 0 t := ⟨h.env, h.latched, h.held⟩

section
variable {j : Nat} {s t u : State}

/-- A later part takes no further data-ready sample (R92). -/
theorem State.MeasureKeeps.trans (h : s.MeasureKeeps j t) (h' : t.MeasureKeeps 0 u) : s.MeasureKeeps j u where
  env := by
    obtain ⟨n, hn⟩ := h.env
    obtain ⟨m, hm⟩ := h'.env
    exact ⟨n + m, by rw [hm, hn, Env.used_used, Nat.add_zero]⟩
  latched := by
    obtain ⟨ho, hk, ha, hw⟩ := h'.latched
    rw [ho, hk, ha, hw]
    exact h.latched
  held hv := by
    obtain ⟨hv, hs, hd⟩ := h'.held hv
    rw [hs, hd]
    exact h.held hv

/-- A frame, and what follows it in the kind that is latched; a frame that waits is followed by nothing. -/
theorem State.MeasureKeeps.frame {k : State → State} (h : s.MeasureKeeps j t)
    (hk : ∀ u : State, u.regs.kind = t.regs.kind → u.MeasureKeeps 0 (k u)) (q : SeqState) (ab db : Byte) :
    s.MeasureKeeps j ((t.frame q ab db).afterFrame k) := by
  have hframe := (t.busKeeps_frame q ab db).measureKeeps
  by_cases hf : (t.frame q ab db).regs.fe = .release
  · obtain ⟨-, hkind, -, -⟩ := hframe.latched
    rw [State.afterFrame_of_release _ _ hf]
    exact h.trans (hframe.trans (hk _ hkind))
  · rw [State.afterFrame_of_not_release _ _ hf]
    exact h.trans hframe

variable (hk : kindRecognised s.regs.kind = true)
include hk

theorem afterMeasMsb_keeps : s.MeasureKeeps 0 (afterMeasMsb s) := by
  rw [afterMeasMsb_eq hk]
  exact ⟨⟨0, rfl⟩, ⟨rfl, rfl, rfl, rfl⟩, nofun⟩

theorem afterMeasLsb_keeps : s.MeasureKeeps 0 (afterMeasLsb s) := by
  have hlsb : s.MeasureKeeps 0 (s.setLsb s.regs.rx) := ⟨⟨0, rfl⟩, ⟨rfl, rfl, rfl, rfl⟩, fun hv => ⟨hv, rfl, rfl⟩⟩
  exact hlsb.frame (fun u hu => afterMeasMsb_keeps (by rwa [hu])) _ _ _

/-- The ready check takes the one data-ready sample of a measurement (R92). -/
theorem checkReady_keeps : s.MeasureKeeps 1 (checkReady s) := by
  by_cases hd : s.env.levelAt 0 = 1#1
  · rw [checkReady_of_not_ready s hd]
    exact ⟨⟨0, rfl⟩, ⟨rfl, rfl, rfl, rfl⟩, nofun⟩
  · have hsample : s.MeasureKeeps 1 ((s.setEnv s.env.popLevel).log (.d 0#1)) :=
      ⟨⟨0, rfl⟩, ⟨rfl, rfl, rfl, rfl⟩, fun hv => ⟨hv, rfl, rfl⟩⟩
    rw [checkReady_of_ready s (level_zero_of_ne_one hd)]
    exact hsample.frame (fun u hu => afterMeasLsb_keeps (by rwa [hu])) _ _ _

end

/-- RDMEAS, RDRAW or RDTEMP from idle takes at most one data-ready sample and keeps what its parts keep (R91, R92). -/
theorem exec_keeps_of_expand_rdmeas {i : Instr} {s t : State} {kind : Nibble} {ign : Bit} {addr : Addr} {wdata : Byte}
    (hidle : s.Idle) (hi : i.expand = .rdmeas kind ign addr wdata) (h : exec i s = .next t) :
    ∃ j ≤ 1, (s.latch 0x5#4 kind addr wdata).quiet.MeasureKeeps j t := by
  cases hk : kindRecognised kind with
  | false =>
    cases (exec_of_unrecognised hidle hi hk).symm.trans h
    exact ⟨0, Nat.zero_le 1, (State.busKeeps_respond _ _ _).measureKeeps⟩
  | true =>
    cases (exec_of_recognised hidle hi hk).symm.trans h
    have hkeeps := checkReady_keeps (s := s.measuring kind addr wdata) hk
    exact ⟨1, le_refl 1, hkeeps.env, hkeeps.latched, hkeeps.held⟩

/-- Settles O28: the operation keeps the script and the fields of the state that latched the command. -/
theorem measureFrame : Obligations.MeasureFrame := by
  intro i s t kind ign addr wdata hidle hi h
  obtain ⟨j, hj, hkeeps⟩ := exec_keeps_of_expand_rdmeas hidle hi h
  obtain ⟨n, hn⟩ := hkeeps.env
  obtain ⟨hop, hkind, haddr, hwdata⟩ := hkeeps.latched
  have hsamples : j = 0 ∨ j = 1 := Nat.le_one_iff_eq_zero_or_eq_one.1 hj
  rw [hn]
  exact ⟨rfl, rfl, hsamples.imp (congrArg (s.env.levelTick + ·)) (congrArg (s.env.levelTick + ·)), hop, hkind, haddr,
    hwdata, fun hv => (hkeeps.held hv).2⟩

end Sys2Proof.Machine
end

section
/-! Where the machine has a step and what instruction it runs (spec/45_sequencer.md R110 to R116, R121), and the outputs
(R111). -/

namespace Sys2Proof.Machine

/-- Settles O38: the invariant gives a legal place, and a recognised kind in Decode and Return. -/
theorem invStateSteps : Obligations.InvStateSteps := by
  intro s h
  rw [step_eq]
  split_ifs
  · exact ⟨_, rfl⟩
  · have hs : s.stuck = false := by
      by_cases hq : s.regs.seq = .measDec
      · simp [State.stuck, h.kindRecognised (by rw [hq]; rfl)]
      · simp [State.stuck, hq]
    obtain ⟨t, ht, -⟩ := runBlock_goes (cmd := (s.env.callerAt 0).cmd) (s := s.setEnv s.env.popCaller) h.pcLegal hs
    exact ⟨t, ht⟩

/-- Settles O32: the port shows no command. -/
theorem idleStep : Obligations.IdleStep := by
  intro s hi hc
  rw [step_of_idle s (by rw [hc]) hi, hc]
  rfl

/-- Settles O35: with no reset the step is that of the block, which has none there. -/
theorem noStepInExcludedStates : Obligations.NoStepInExcludedStates := by
  intro s hl hr
  rw [step_eq, hr, if_neg (by simp)]
  exact runBlock_of_not_legal _ (s := s.setEnv s.env.popCaller) hl

/-- With chip-select just asserted a frame that two bytes name is run (R50, R113). -/
theorem exec_of_decode_wire {w : WireWord} {i : Instr} (h : decode (.wire w) = .ok i) {s : State}
    (hq : s.regs.seq.runsFrame = true) (hf : s.regs.fe = .select) : ∃ t, exec i s = .next t := by
  simp only [decode, decodeFrame] at h
  split_ifs at h <;> cases h
  · exact ⟨_, runFrame_of_select _ _ hq hf⟩
  · exact ⟨_, runFrame_of_select _ _ hq hf⟩

/-- Settles O29: a command is run from idle, a frame with chip-select just asserted. -/
theorem stepRunsDecoded : Obligations.StepRunsDecoded := by
  refine ⟨fun s w i hi hc hd => ?_, fun s i hq hf hr hd => ?_⟩
  · rw [step_of_idle s (by rw [hc]) hi, hc]
    exact runCommand_of_decode hd
  · obtain ⟨t, ht⟩ := exec_of_decode_wire hd (s := s.setEnv s.env.popCaller) hq hf
    refine ⟨t, ht, ?_⟩
    have hg : goOn (s.setEnv s.env.popCaller) = runFrameWord (s.setEnv s.env.popCaller) := by
      simp [goOn, pcLegal, hq, hf]
    rw [step_of_busy s hr (SeqState.ne_of_runsFrame hq).1, hg]
    simp only [runFrameWord, State.setEnv_regs, hd, ht]

/-- Settles O40: the outputs by the frame phase, the two bytes by the sequencer state. -/
theorem outputs : Obligations.Outputs := by
  intro r
  have bytes : ∀ {q : SeqState} {a d : Byte}, ({ r with seq := q }.abyte = a ∧ { r with seq := q }.dbyte = d) →
      r.seq = q → r.abyte = a ∧ r.dbyte = d := by
    rintro q a d h rfl
    exact h
  refine ⟨by simp [Regs.cmdReady], ?_, ?_, ?_, ?_, ?_, bytes ⟨rfl, rfl⟩, bytes ⟨rfl, rfl⟩, bytes ⟨rfl, rfl⟩,
    bytes ⟨rfl, rfl⟩, bytes ⟨rfl, rfl⟩, bytes ⟨rfl, rfl⟩, bytes ⟨rfl, rfl⟩, bytes ⟨rfl, rfl⟩, bytes ⟨rfl, rfl⟩,
    bytes ⟨rfl, rfl⟩, bytes ⟨rfl, rfl⟩⟩
  all_goals cases hf : r.fe <;> simp [Regs.csN, Regs.xferReq, Regs.xferTx, hf]

end Sys2Proof.Machine
end

section
/-! The acceptance of a command at an edge (spec/45_sequencer.md R112), and the fields no other edge latches. -/

namespace Sys2Proof.Machine

/-! ### The pairs R16 allows -/

/-- Where `seq` runs no frame the one phase R16 allows is `F_IDLE`. -/
theorem fe_eq_idle_of_legal {q : SeqState} {f : FramePhase} (hl : pcLegal q f = true) (hq : q.runsFrame = false) :
    f = .idle := by
  cases f with
  | idle => rfl
  | select | addr | data | release => cases hq.symm.trans hl

/-! ### The latched fields -/

/-- The fields of the command accepted last (R12). -/
def Regs.latched (r : Regs) : Nibble × Nibble × Addr × Byte := (r.op, r.kind, r.addr, r.wdata)

/-- The edge that ends `F_RELEASE` latches no command. -/
theorem Regs.edgeRelease_latched {r r' : Regs} {ev : List Event} (h : r.edgeRelease = some (r', ev)) :
    r'.latched = r.latched := by
  have start : ∀ {l : Regs} {q : SeqState}, l.edgeStart q = (r', ev) → l.latched = r.latched →
      r'.latched = r.latched := by
    rintro l q ⟨⟩ hl
    exact hl
  have respond : ∀ {st : Status} {d : RspData}, r.edgeRespond st d = (r', ev) → r'.latched = r.latched := by
    rintro st d ⟨⟩; rfl
  cases hq : r.seq <;> simp only [Regs.edgeRelease, hq, Option.some.injEq, reduceCtorEq] at h
  case rdreg | wrreg | initLL | hasflt => exact respond h
  case initCW | initHM | initHL | initLM | measLsb => exact start h rfl
  case initCR =>
    split_ifs at h
    · exact start h rfl
    · exact respond h
  case measMsb => cases h; rfl

/-- An edge outside any frame latches a command only at `S_IDLE`. -/
theorem Regs.edgeOutside_latched {inp : Inputs} {r r' : Regs} {ev : List Event}
    (hb : r.seq ≠ .idle ∨ inp.cmdValid = false) (h : r.edgeOutside inp = some (r', ev)) : r'.latched = r.latched := by
  cases hq : r.seq <;> simp only [Regs.edgeOutside, hq, Option.some.injEq, reduceCtorEq] at h
  case idle =>
    have hv : inp.cmdValid = false := hb.resolve_left (not_not_intro hq)
    rw [hv, if_neg (by simp)] at h
    cases h; rfl
  case measChk | measFlt | measDec => split_ifs at h <;> cases h <;> rfl

/-- An edge with no reset that accepts no command keeps the latched fields (R12, R112). -/
theorem edge_latched {inp : Inputs} {r r' : Regs} {ev : List Event} (hr : inp.rst = false)
    (hb : r.seq ≠ .idle ∨ inp.cmdValid = false) (h : edge inp r = some (r', ev)) : r'.latched = r.latched := by
  unfold edge at h
  rw [if_neg (by simp [hr])] at h
  cases hf : r.fe <;> simp only [hf] at h
  case idle => exact Regs.edgeOutside_latched hb h
  case release => exact Regs.edgeRelease_latched h
  case select | addr | data => split_ifs at h <;> cases h <;> rfl

/-- The registers with the fields of the command `w` latched (R112). -/
def Regs.accepting (r : Regs) (w : CmdWord) : Regs :=
  { r with op := cmdOp w, kind := cmdKind w, addr := cmdAddr w, wdata := cmdWdata w, rspValid := false }

/-- The edge that accepts a command, from the registers with its fields latched (R112). -/
theorem Regs.edgeAccept_eq (r : Regs) (w : CmdWord) : r.edgeAccept w =
    if (r.accepting w).op = 0x1#4 then (r.accepting w).edgeStart .rdreg
    else if (r.accepting w).op = 0x2#4 then (r.accepting w).edgeStart .wrreg
    else if (r.accepting w).op = 0x3#4 then (r.accepting w).edgeStart .initCW
    else if (r.accepting w).op = 0x4#4 then (r.accepting w).edgeStart .hasflt
    else if (r.accepting w).op = 0x5#4 then
      if (r.accepting w).kind = 0x0#4 ∨ (r.accepting w).kind = 0x1#4 then
        ({ r.accepting w with seq := .measChk }, [])
      else (r.accepting w).edgeRespond .invalidKind 0x0000#16
    else (r.accepting w).edgeRespond .badOp 0x0000#16 := rfl

/-- The edge of the idle block accepts the command presented, or does nothing but clear `rsp_valid` (R112, R120). -/
theorem edge_of_idle {inp : Inputs} {r : Regs} (hr : inp.rst = false) (hq : r.seq = .idle) (hf : r.fe = .idle) :
    edge inp r = some (if inp.cmdValid then r.edgeAccept inp.cmd else (r.hush, [])) := by
  simp [edge, hr, hf, Regs.edgeOutside, hq]

/-- Settles O41: the edge from idle is `edgeAccept`, by operation code; every other edge keeps the latched fields. -/
theorem acceptEdge : Obligations.AcceptEdge := by
  refine ⟨fun inp r l hr hq hf hl => ?_, fun inp r r' ev hr hb h => by simpa [Regs.latched] using edge_latched hr hb h⟩
  rw [edge_of_idle hr hq hf]
  change l = r.accepting inp.cmd at hl
  subst hl
  refine ⟨fun hv => by rw [hv]; rfl, fun hv => ?_⟩
  rw [if_pos hv]
  have start : ∀ q, r.edgeAccept inp.cmd = (r.accepting inp.cmd).edgeStart q →
      some (r.edgeAccept inp.cmd) = some ({ r.accepting inp.cmd with seq := q, fe := .select }, [.csLow]) :=
    fun _ h => congrArg some h
  have respond : ∀ st, r.edgeAccept inp.cmd = (r.accepting inp.cmd).edgeRespond st 0x0000#16 →
      some (r.edgeAccept inp.cmd) = some
        ({ r.accepting inp.cmd with rspValid := true, rspStatus := st, rspData := 0x0000#16 },
          [.rsp st 0x0000#16]) := fun st h => by
    rw [h]
    simp [Regs.edgeRespond, Regs.accepting, hq, hf]
  refine ⟨fun h => start .rdreg ?_, fun h => start .wrreg ?_, fun h => start .initCW ?_, fun h => start .hasflt ?_,
    fun h hk => congrArg some ?_, fun h hk0 hk1 => respond .invalidKind ?_, fun h => respond .badOp ?_⟩
  · rw [Regs.edgeAccept_eq, if_pos h]
  · simp [Regs.edgeAccept_eq, h]
  · simp [Regs.edgeAccept_eq, h]
  · simp [Regs.edgeAccept_eq, h]
  · simp only [Regs.edgeAccept_eq, h, hk]
    rfl
  · simp [Regs.edgeAccept_eq, h, hk0, hk1]
  · simp [Regs.edgeAccept_eq, (reservedOp_iff _).1 h]

end Sys2Proof.Machine
end

section
/-! The frame at the cycle level (spec/45_sequencer.md R113 to R116, R125): its edges, the waits, and its end. -/

namespace Sys2Proof.Machine

/-! ### The entries into `F_SELECT` and `F_RELEASE` -/

/-- An outcome of an edge enters `F_SELECT` with `CsLow` and `F_RELEASE` with `CsHigh`, and only so (R113, R116). -/
def MarksChipSelect (p : Regs × List Event) : Prop :=
  (p.1.fe = .select ↔ Event.csLow ∈ p.2) ∧ (p.1.fe = .release ↔ Event.csHigh ∈ p.2)

theorem Regs.edgeStart_marks (r : Regs) (q : SeqState) : MarksChipSelect (r.edgeStart q) := by
  simp [MarksChipSelect, Regs.edgeStart]

theorem Regs.edgeRespond_marks (r : Regs) (st : Status) (d : RspData) : MarksChipSelect (r.edgeRespond st d) := by
  simp [MarksChipSelect, Regs.edgeRespond]

/-- An edge with no event that enters neither phase. -/
theorem marks_of_no_event {r : Regs} (hs : r.fe ≠ .select) (hr : r.fe ≠ .release) : MarksChipSelect (r, []) := by
  simp [MarksChipSelect, hs, hr]

theorem Regs.edgeAccept_marks {r : Regs} (w : CmdWord) (hf : r.fe = .idle) : MarksChipSelect (r.edgeAccept w) := by
  unfold Regs.edgeAccept
  split_ifs
  · exact Regs.edgeStart_marks _ _
  · exact Regs.edgeStart_marks _ _
  · exact Regs.edgeStart_marks _ _
  · exact Regs.edgeStart_marks _ _
  · exact marks_of_no_event (by simp [Regs.hush, hf]) (by simp [Regs.hush, hf])
  · exact Regs.edgeRespond_marks _ _ _
  · exact Regs.edgeRespond_marks _ _ _

theorem Regs.edgeRelease_marks {r : Regs} {p : Regs × List Event} (h : r.edgeRelease = some p) : MarksChipSelect p := by
  cases hq : r.seq <;> simp only [Regs.edgeRelease, hq, Option.some.injEq, reduceCtorEq] at h <;> subst h
  case rdreg | wrreg | initLL | hasflt => exact Regs.edgeRespond_marks _ _ _
  case initCW | initHM | initHL | initLM | measLsb => exact Regs.edgeStart_marks _ _
  case initCR =>
    split_ifs
    · exact Regs.edgeStart_marks _ _
    · exact Regs.edgeRespond_marks _ _ _
  case measMsb => exact marks_of_no_event (by simp) (by simp)

theorem Regs.edgeOutside_marks {inp : Inputs} {r : Regs} {p : Regs × List Event} (hf : r.fe = .idle)
    (h : r.edgeOutside inp = some p) : MarksChipSelect p := by
  have quiet : ∀ {l : Regs}, l.fe = r.fe → MarksChipSelect (l, []) := fun hl =>
    marks_of_no_event (by simp [hl, hf]) (by simp [hl, hf])
  cases hq : r.seq <;> simp only [Regs.edgeOutside, hq, Option.some.injEq, reduceCtorEq] at h
  case idle =>
    subst h
    split_ifs
    · exact Regs.edgeAccept_marks inp.cmd hf
    · exact quiet rfl
  case measChk =>
    subst h
    split_ifs
    · simp [MarksChipSelect, Regs.edgeRespond]
    · simp [MarksChipSelect, Regs.edgeStart]
  case measFlt =>
    subst h
    split_ifs
    · exact Regs.edgeRespond_marks _ _ _
    · exact quiet rfl
  case measDec =>
    split_ifs at h <;> cases h
    · exact Regs.edgeRespond_marks _ _ _
    · exact Regs.edgeRespond_marks _ _ _

/-- Every edge, reset included. -/
theorem edge_marks {inp : Inputs} {r : Regs} {p : Regs × List Event} (h : edge inp r = some p) :
    MarksChipSelect p := by
  cases hr : inp.rst with
  | true =>
    obtain rfl : (Regs.reset, []) = p := by simpa [edge, hr] using h
    exact marks_of_no_event (by simp [Regs.reset]) (by simp [Regs.reset])
  | false =>
    simp only [edge, hr, Bool.false_eq_true, if_false] at h
    cases hf : r.fe <;> simp only [hf] at h
    case idle => exact Regs.edgeOutside_marks hf h
    case release => exact Regs.edgeRelease_marks h
    case select | addr | data => split_ifs at h <;> cases h <;> simp [MarksChipSelect, Regs.hush, hf]

/-! ### The edges inside a frame -/

section
variable {inp : Inputs} {r : Regs} (hr : inp.rst = false) (hq : r.seq.runsFrame = true)
include hr hq

/-- `F_SELECT` lasts one cycle (R113). -/
theorem edge_of_select (hf : r.fe = .select) : edge inp r = some ({ r.hush with fe := .addr }, []) := by
  simp [edge, hr, hf, hq]

/-- The first exchange seen complete (R114). -/
theorem edge_of_addr_done (hf : r.fe = .addr) (hd : inp.xferDone = true) :
    edge inp r = some ({ r.hush with fe := .data }, [.x r.abyte inp.xferRx]) := by
  simp [edge, hr, hf, hq, hd]

/-- The second exchange seen complete (R115). -/
theorem edge_of_data_done (hf : r.fe = .data) (hd : inp.xferDone = true) :
    edge inp r = some ({ r.hush with rx := inp.xferRx, fe := .release }, [.x r.dbyte inp.xferRx, .csHigh]) := by
  simp [edge, hr, hf, hq, hd]

/-- An exchange not seen complete (R114, R115). -/
theorem edge_of_wait (hf : r.fe = .addr ∨ r.fe = .data) (hd : inp.xferDone = false) :
    edge inp r = some (r.hush, []) := by
  obtain hf | hf := hf <;> simp [edge, hr, hf, hq, hd]

end

/-! ### Runs of edges -/

/-- A run of edges is its first edge and the rest. -/
theorem edges_cons {inp : Inputs} {rest : List Inputs} {r r1 r2 : Regs} {ev1 ev2 : List Event}
    (he : edge inp r = some (r1, ev1)) (h : edges rest r1 = some (r2, ev2)) :
    edges (inp :: rest) r = some (r2, ev1 ++ ev2) := by
  simp only [edges, he, h]

/-- A run of edges that has a step at each takes its first edge and then the rest. -/
theorem edge_of_edges_cons {inp : Inputs} {rest : List Inputs} {r r2 : Regs} {ev : List Event}
    (h : edges (inp :: rest) r = some (r2, ev)) :
    ∃ r1 ev1 ev2, edge inp r = some (r1, ev1) ∧ edges rest r1 = some (r2, ev2) ∧ ev = ev1 ++ ev2 := by
  simp only [edges] at h
  split at h
  · cases h
  · next r1 ev1 he =>
    split at h
    · cases h
    · next r' ev2 hrest =>
      cases h
      exact ⟨r1, ev1, ev2, he, hrest, rfl⟩

/-- Runs of edges one after the other. -/
theorem edges_append {a b : List Inputs} {r r1 r2 : Regs} {ev1 ev2 : List Event} (ha : edges a r = some (r1, ev1))
    (hb : edges b r1 = some (r2, ev2)) : edges (a ++ b) r = some (r2, ev1 ++ ev2) := by
  induction a generalizing r ev1 with
  | nil => cases ha; exact hb
  | cons inp a ih =>
    obtain ⟨q, ev, ev', he, hrest, rfl⟩ := edge_of_edges_cons ha
    rw [List.append_assoc]
    exact edges_cons he (ih hrest)

/-- Waiting in `F_ADDR` or `F_DATA` has no bound, and changes nothing but `rsp_valid` (R114, R115). -/
theorem edges_of_waits {r : Regs} (hq : r.seq.runsFrame = true) (hf : r.fe = .addr ∨ r.fe = .data) {w : List Inputs}
    (hw : ∀ i ∈ w, i.rst = false ∧ i.xferDone = false) :
    edges w r = some ({ r with rspValid := r.rspValid && w.isEmpty }, []) := by
  induction w generalizing r with
  | nil => simp [edges]
  | cons i w ih =>
    obtain ⟨⟨hr, hd⟩, hw⟩ := List.forall_mem_cons.1 hw
    have h := edges_cons (edge_of_wait hr hq hf hd) (ih (r := r.hush) hq hf hw)
    simpa [Regs.hush] using h

/-- Settles O42: each phase by its edge, the waits by induction on them. -/
theorem frameEdges : Obligations.FrameEdges := by
  refine ⟨fun inp r hr hq => ⟨fun hf => ⟨by rw [Regs.csN, hf], by rw [Regs.xferReq, hf], edge_of_select hr hq hf⟩,
    fun hf hd => edge_of_addr_done hr hq hf hd, fun hf hd => edge_of_data_done hr hq hf hd,
    fun hf w hw => edges_of_waits hq hf hw⟩, fun inp r r' ev h => (edge_marks h).1⟩

/-- Waiting edges and the edge that completes the exchange are that edge (R114, R115). -/
theorem edges_of_exchange {r r1 : Regs} {ev : List Event} {w : List Inputs} {i : Inputs}
    (hq : r.seq.runsFrame = true) (hf : r.fe = .addr ∨ r.fe = .data) (hv : r.rspValid = false)
    (hw : ∀ i ∈ w, i.rst = false ∧ i.xferDone = false) (he : edge i r = some (r1, ev)) :
    edges (w ++ [i]) r = some (r1, ev) := by
  have hwait := edges_of_waits hq hf hw
  rw [hv, Bool.false_and, ← hv] at hwait
  have h := edges_append hwait (edges_cons he (rest := []) rfl)
  simpa using h

/-- Settles O50: `F_SELECT`, then two exchanges, each after its waits. -/
theorem frameCycles : Obligations.FrameCycles := by
  intro r i0 ia id wa wd hq hf hr hw hda hdd
  simp only [List.mem_cons, List.mem_append, forall_eq_or_imp] at hr hw
  obtain ⟨hr0, hra, hrd, hrw⟩ := hr
  have waits : ∀ w : List Inputs, (∀ i ∈ w, i ∈ wa ∨ i ∈ wd) → ∀ i ∈ w, i.rst = false ∧ i.xferDone = false :=
    fun w hs i hi => ⟨hrw i (hs i hi), hw i (hs i hi)⟩
  have hsel := edge_of_select hr0 hq hf
  have haddr := edges_of_exchange (r := { r.hush with fe := .addr }) hq (.inl rfl) rfl
    (waits wa fun _ => .inl) (edge_of_addr_done hra hq rfl hda)
  have hdata := edges_of_exchange (r := { r.hush with fe := .data }) hq (.inr rfl) rfl
    (waits wd fun _ => .inr) (edge_of_data_done hrd hq rfl hdd)
  rw [List.append_cons]
  exact edges_cons hsel (edges_append haddr hdata)

/-! ### The end of a frame -/

/-- The fault flag as the data of HASFLT (R85, R86). -/
theorem faultBit_setWidth_eq_ite (l : Byte) :
    (faultBit l).setWidth 16 = if l.getLsbD 0 then 0x0001#16 else 0x0000#16 := by
  revert l; decide

/-- A byte as the data of RDREG (R70). -/
theorem setWidth_eq_append (b : Byte) : b.setWidth 16 = 0x00#8 ++ b := by
  revert b; decide

/-- Settles O43: the edge is `edgeRelease`, by sequencer state. -/
theorem releaseEdges : Obligations.ReleaseEdges := by
  refine ⟨fun inp r r' ev h => (edge_marks h).2, ?_⟩
  rintro inp r _ hr hf rfl
  have hedge : edge inp r = r.edgeRelease := by simp [edge, hr, hf]
  rw [hedge, ← setWidth_eq_append, ← faultBit_setWidth_eq_ite]
  have at_seq : ∀ {q : SeqState} {p : Regs × List Event}, { r with seq := q }.edgeRelease = some p →
      r.seq = q → r.edgeRelease = some p := by
    rintro q p h rfl
    exact h
  exact ⟨by rw [Regs.csN, hf], by rw [Regs.xferReq, hf], at_seq rfl, at_seq rfl, at_seq rfl,
    fun hq hx => at_seq (q := .initCR) (congrArg some (if_pos hx)) hq,
    fun hq hx => at_seq (q := .initCR) (congrArg some (if_neg hx)) hq,
    at_seq rfl, at_seq rfl, at_seq rfl, at_seq rfl, at_seq rfl, at_seq rfl, at_seq rfl⟩

end Sys2Proof.Machine
end

section
/-! The states of RDMEAS outside any frame (spec/45_sequencer.md R117 to R119), and the response at an edge (R120). -/

namespace Sys2Proof.Machine

/-! ### The edges of RDMEAS -/

/-- RDMEAS is in progress only with a recognised kind (R91, R119). -/
def Regs.KindOk (r : Regs) : Prop := r.seq.measuring = true → kindRecognised r.kind = true

/-- Every edge keeps it so (R119). -/
theorem Regs.KindOk.edge {inp : Inputs} {r r' : Regs} {ev : List Event} (hk : r.KindOk)
    (h : edge inp r = some (r', ev)) : r'.KindOk := by
  intro hm
  cases hr : inp.rst with
  | true =>
    obtain ⟨rfl, -⟩ : Regs.reset = r' ∧ [] = ev := by simpa [Machine.edge, hr] using h
    cases hm
  | false =>
    obtain hg | hg := edge_cases hr h
    · obtain hk' | ⟨hm', hk'⟩ := hg.kind hm
      · exact hk'
      · rw [hk']; exact hk hm'
    · rw [hg.idle.1] at hm; cases hm

/-- Bit 0 of the RTD LSB byte is the fault flag (R93). -/
theorem faultBit_eq_one_iff_getLsbD (l : Byte) : faultBit l = 1#1 ↔ l.getLsbD 0 = true := by
  revert l; decide

/-- Settles O44: the edge is `edgeOutside`, by sequencer state. -/
theorem measureEdges : Obligations.MeasureEdges := by
  refine ⟨?_, fun inp r r' ev h hk hm => ?_, fun inp r level hq => ?_⟩
  · rintro inp r _ _ hr hf rfl rfl
    have hedge : edge inp r = r.edgeOutside inp := by simp [edge, hr, hf]
    rw [hedge]
    simp only [← faultBit_eq_one_iff_getLsbD, ← Bool.not_eq_true]
    have at_seq : ∀ {q : SeqState} {p : Regs × List Event}, { r with seq := q }.edgeOutside inp = some p →
        r.seq = q → r.edgeOutside inp = some p := by
      rintro q p h rfl
      exact h
    refine ⟨fun hq hd => at_seq ?_ hq, fun hq hd => at_seq ?_ hq, fun hq hb => at_seq ?_ hq, fun hq hb => at_seq ?_ hq,
      fun hq hk => at_seq ?_ hq, fun hq hk => at_seq ?_ hq⟩
    · simp [Regs.edgeOutside, hd, Regs.edgeRespond, hf]
    · simp [Regs.edgeOutside, hd, Regs.edgeStart, Regs.hush]
    · simp [Regs.edgeOutside, hb, Regs.edgeRespond, hf]
    · simp [Regs.edgeOutside, hb, Regs.hush]
    · simp [Regs.edgeOutside, hk, Regs.edgeRespond, hf, rawData, rawCode]
    · simp [Regs.edgeOutside, hk, Regs.edgeRespond, hf, temperatureData, temperatureTenths_eq, rawCode]
  · exact (kindRecognised_iff _).1
      (Regs.KindOk.edge (fun hm' => (kindRecognised_iff _).2 (hk hm')) h hm)
  · exact inputsIgnored _ _ r rfl (fun _ => ⟨rfl, rfl⟩) (fun _ => ⟨rfl, rfl⟩) (fun h => absurd h hq)

/-! ### The response at an edge -/

theorem Bracket.eq_ended_of_next_rsp {st : Status} {d : RspData} {b c : Bracket} (h : b.next (.rsp st d) = some c) :
    c = .ended := by
  cases b <;> cases h
  rfl

/-- Nothing follows the response in a well-framed trace (R132). -/
theorem Bracket.run_eq_ended_of_rsp_mem {st : Status} {d : RspData} {ev : List Event} (hm : .rsp st d ∈ ev) :
    ∀ {b c : Bracket}, b.run ev = some c → c = .ended := by
  induction ev with
  | nil => cases hm
  | cons e es ih =>
    intro b c h
    cases hn : b.next e with
    | none => simp [Bracket.run, hn] at h
    | some b' =>
      simp only [Bracket.run, hn] at h
      obtain he | hes := List.mem_cons.1 hm
      · subst he
        obtain rfl := Bracket.eq_ended_of_next_rsp hn
        cases es with
        | nil => exact (Option.some.inj h).symm
        | cons e es => cases h
      · exact ih hes h

/-- Settles O49: an edge at which no operation ends has no response among its events, since its trace goes on. -/
theorem edgeResponse : Obligations.EdgeResponse := by
  intro inp r r' ev hr h
  obtain hg | hg := edge_cases hr h
  · refine ⟨fun hv => absurd (hg.valid.symm.trans hv) Bool.false_ne_true,
      fun _ => ⟨hg.held.1, hg.held.2, fun st d hm => ?_⟩⟩
    have hend := Bracket.run_eq_ended_of_rsp_mem hm hg.framed
    cases hf : r'.fe <;> rw [hf] at hend <;> cases hend
  · exact ⟨fun _ => ⟨hg.last, hg.idle.1, hg.idle.2⟩, fun hv => absurd (hv.symm.trans hg.valid) Bool.false_ne_true⟩

end Sys2Proof.Machine
end

section
/-! Runs of edges from two idle register files: what the block reads of the registers it held before
(spec/10_state.md R10, R11, spec/45_sequencer.md R122). -/

namespace Sys2Proof.Machine

/-- From every place R16 allows, with RDMEAS only of a recognised kind, there is an edge (R110, R121). -/
theorem exists_edge (inp : Inputs) {r : Regs} (hl : pcLegal r.seq r.fe = true) (hk : r.KindOk) :
    ∃ p, edge inp r = some p := by
  cases hr : inp.rst with
  | true => exact ⟨_, by rw [edge, hr, if_pos rfl]⟩
  | false =>
    simp only [edge, hr, Bool.false_eq_true, if_false]
    cases hf : r.fe <;> simp only [pcLegal, hf, Bool.not_eq_true'] at hl
    case select | addr | data => exact ⟨_, if_pos hl⟩
    case release =>
      cases hq : r.seq <;> simp only [hq, SeqState.runsFrame, reduceCtorEq] at hl <;>
        exact ⟨_, by simp only [Regs.edgeRelease, hq]; rfl⟩
    case idle =>
      cases hq : r.seq <;> simp only [hq, SeqState.runsFrame, reduceCtorEq] at hl
      case idle | measChk | measFlt => exact ⟨_, by simp only [Regs.edgeOutside, hq]; rfl⟩
      case measDec =>
        obtain h | h := (kindRecognised_iff _).1 (hk (by rw [hq]; rfl))
        · exact ⟨_, by simp only [Regs.edgeOutside, hq, h, if_true]; rfl⟩
        · exact ⟨_, by simp [Regs.edgeOutside, hq, h]; rfl⟩

/-- Two register files whose moves and events no input tells apart: in the middle of an operation they stand at the
same point of it, and idle they may differ in every register but the place (R10, R11). -/
structure Regs.Alike (r u : Regs) : Prop where
  pc : r.seq = u.seq ∧ r.fe = u.fe
  same : r.seq ≠ .idle → r.Same u
  legal : pcLegal r.seq r.fe = true
  kindOk : r.KindOk

theorem Regs.Alike.of_idle {r u : Regs} (hr : r.seq = .idle ∧ r.fe = .idle) (hu : u.seq = .idle ∧ u.fe = .idle) :
    r.Alike u where
  pc := ⟨hr.1.trans hu.1.symm, hr.2.trans hu.2.symm⟩
  same hb := absurd hr.1 hb
  legal := by rw [hr.1, hr.2]; rfl
  kindOk hm := by rw [hr.1] at hm; cases hm

/-- Every edge but that of an idle block with no command reads alike from both (R112, R122). -/
theorem Regs.Alike.sameEdge {inp : Inputs} {r u : Regs} (h : r.Alike u)
    (ha : r.seq = .idle → inp.rst = true ∨ inp.cmdValid = true) : SameEdge (edge inp r) (edge inp u) := by
  by_cases hq : r.seq = .idle
  · cases hr : inp.rst with
    | true =>
      rw [edge, edge, if_pos hr, if_pos hr]
      exact .some ⟨fun _ _ => SameOperation.refl _, rfl⟩
    | false =>
      have hv : inp.cmdValid = true := (ha hq).resolve_left (by simp [hr])
      have hf : r.fe = .idle := fe_eq_idle_of_legal h.legal (by rw [hq]; rfl)
      rw [edge_of_idle hr hq hf, edge_of_idle hr (h.pc.1 ▸ hq) (h.pc.2 ▸ hf), if_pos hv, if_pos hv]
      exact Regs.edgeAccept_same inp.cmd hf (h.pc.2 ▸ hf)
  · exact edge_same inp (h.same hq)

/-- One edge with the same inputs keeps both alike, with the same events, and signals a response from both or from
neither. -/
theorem Regs.Alike.edge {r u : Regs} (h : r.Alike u) (inp : Inputs) : ∃ r' u' ev,
    edge inp r = some (r', ev) ∧ edge inp u = some (u', ev) ∧ r'.Alike u' ∧ r'.rspValid = u'.rspValid := by
  by_cases ha : r.seq = .idle → inp.rst = true ∨ inp.cmdValid = true
  · obtain ⟨⟨r', ev⟩, he⟩ := exists_edge inp h.legal h.kindOk
    have hs := h.sameEdge ha
    rw [he] at hs
    generalize hu : Machine.edge inp u = o at hs
    cases hs with
    | @some _ q hs =>
      obtain ⟨u', ev'⟩ := q
      obtain ⟨hsame, rfl⟩ : r'.Same u' ∧ ev = ev' := hs
      have hop := hsame State.reset.env []
      have hlegal := edgeKeepsPcLegal inp r r' ev h.legal he
      exact ⟨r', u', ev, he, rfl, ⟨hop.pc, fun _ => hsame, hlegal, h.kindOk.edge he⟩, hop.valid⟩
  · obtain ⟨hq, hn⟩ := Classical.not_imp.1 ha
    obtain ⟨hr, hv⟩ : inp.rst = false ∧ inp.cmdValid = false := by simpa using hn
    have hf : r.fe = .idle := fe_eq_idle_of_legal h.legal (by rw [hq]; rfl)
    have hu : u.seq = .idle ∧ u.fe = .idle := ⟨h.pc.1 ▸ hq, h.pc.2 ▸ hf⟩
    exact ⟨r.hush, u.hush, [], by rw [edge_of_idle hr hq hf, hv]; rfl, by rw [edge_of_idle hr hu.1 hu.2, hv]; rfl,
      .of_idle ⟨hq, hf⟩ hu, rfl⟩

/-- Any number of edges with the same inputs. -/
theorem Regs.Alike.edges (ins : List Inputs) : ∀ {r u : Regs}, r.Alike u → ∃ r' u' ev,
    edges ins r = some (r', ev) ∧ edges ins u = some (u', ev) ∧ r'.Alike u' ∧
      (ins ≠ [] ∨ r.rspValid = u.rspValid → r'.rspValid = u'.rspValid) := by
  induction ins with
  | nil => exact fun h => ⟨_, _, [], rfl, rfl, h, fun hv => hv.resolve_left (by simp)⟩
  | cons inp rest ih =>
    intro r u h
    obtain ⟨r1, u1, ev1, hr, hu, h1, hv⟩ := h.edge inp
    obtain ⟨r2, u2, ev2, hrs, hus, h2, hv2⟩ := ih h1
    exact ⟨r2, u2, ev1 ++ ev2, edges_cons hr hrs, edges_cons hu hus, h2, fun _ => hv2 (.inr hv)⟩

/-- Settles O46: two idle register files are alike. -/
theorem writeBeforeRead : Obligations.WriteBeforeRead := by
  intro ins r u hrq hrf huq huf
  obtain ⟨r', u', ev, hr, hu, h, hv⟩ := (Regs.Alike.of_idle ⟨hrq, hrf⟩ ⟨huq, huf⟩).edges ins
  exact ⟨r', u', ev, hr, hu, h.pc.1, h.pc.2, fun hn => hv (.inl hn)⟩

end Sys2Proof.Machine
end

section
/-! The refinement (spec/45_sequencer.md R123): a run of edges from a busy state, in which each exchange may be made to
wait, is what the machine does in one step when its environment gives the same bytes and levels. -/

namespace Sys2Proof.Machine

/-! ### Runs of edges and the samples they take -/

/-- A run of edges from `s` with no reset and the block busy before each, whose bytes received and levels sampled are
those the environment of `s` gives, until the operation ends or the next sample completes no exchange. -/
structure State.Runs (s : State) (ins : List Inputs) (r : Regs) (ev : List Event) : Prop where
  noReset : ∀ i ∈ ins, i.rst = false
  busy : busyThroughout ins s.regs = true
  edges : edges ins s.regs = some (r, ev)
  ends : s.env.EndsAt (bytesReceived ins s.regs).length r
  answers : s.Answers (bytesReceived ins s.regs)
  levels : ∀ k l, (levelsSampled ins s.regs)[k]? = some l → s.env.levelAt k = l

/-- `s` with the events `ev` added and so many samples used as a run of the edges `ins` to `r` takes. -/
def State.ranTo (s : State) (ins : List Inputs) (r : Regs) (ev : List Event) : State where
  regs := r
  env := s.env.used (samplesTaken (bytesReceived ins s.regs).length r) (levelsSampled ins s.regs).length
  trace := s.trace ++ ev

/-- The byte an edge receives, if an exchange completes at it. -/
def byteReceived (inp : Inputs) (r : Regs) : List Byte := if r.xferReq && inp.xferDone then [inp.xferRx] else []

/-- The level an edge samples, if it samples data-ready. -/
def levelSampled (inp : Inputs) (r : Regs) : List Bit := if r.seq == .measChk then [inp.drdyN] else []

section
variable {inp : Inputs} {rest : List Inputs} {r r1 : Regs} {ev1 : List Event}

theorem bytesReceived_cons (he : edge inp r = some (r1, ev1)) :
    bytesReceived (inp :: rest) r = byteReceived inp r ++ bytesReceived rest r1 := by
  simp only [bytesReceived, he, byteReceived]
  split_ifs <;> rfl

theorem levelsSampled_cons (he : edge inp r = some (r1, ev1)) :
    levelsSampled (inp :: rest) r = levelSampled inp r ++ levelsSampled rest r1 := by
  simp only [levelsSampled, he, levelSampled]
  split_ifs <;> rfl

theorem busyThroughout_cons (he : edge inp r = some (r1, ev1)) :
    busyThroughout (inp :: rest) r = true ↔ r.seq ≠ .idle ∧ busyThroughout rest r1 = true := by
  simp [busyThroughout, he]

end

theorem samplesTaken_add (n m : Nat) (r : Regs) : samplesTaken (n + m) r = n + samplesTaken m r := by
  unfold samplesTaken
  split_ifs
  · rfl
  · exact Nat.add_assoc n m 1

/-- `s` after the edge with the inputs `inp` to `r1`: the sample it took is used only if it completed an exchange. -/
def State.afterSample (s : State) (inp : Inputs) (r1 : Regs) (ev1 : List Event) : State where
  regs := r1
  env := s.env.used (byteReceived inp s.regs).length (levelSampled inp s.regs).length
  trace := s.trace ++ ev1

/-- A run of edges is its first edge, with the samples it is given there, and a run of the rest. -/
theorem State.Runs.cons {s : State} {inp : Inputs} {rest : List Inputs} {r : Regs} {ev : List Event}
    (h : s.Runs (inp :: rest) r ev) : ∃ r1 ev1 ev2, edge inp s.regs = some (r1, ev1) ∧
      (∀ b, byteReceived inp s.regs = [b] → s.env.answerAt 0 = some b) ∧
      (∀ l, levelSampled inp s.regs = [l] → s.env.levelAt 0 = l) ∧
      (s.afterSample inp r1 ev1).Runs rest r ev2 ∧
      (s.afterSample inp r1 ev1).ranTo rest r ev2 = s.ranTo (inp :: rest) r ev := by
  obtain ⟨r1, ev1, ev2, he, hrest, rfl⟩ := edge_of_edges_cons h.edges
  have hb := bytesReceived_cons (rest := rest) he
  have hl := levelsSampled_cons (rest := rest) he
  have hbytes := h.answers
  have hlevels := h.levels
  have hends := h.ends
  rw [hb] at hbytes hends
  rw [hl] at hlevels
  refine ⟨r1, ev1, ev2, he, fun b h1 => hbytes 0 b (by simp [h1]), fun l h1 => hlevels 0 l (by simp [h1]), ?_, ?_⟩
  · exact {
      noReset := fun i hi => h.noReset i (List.mem_cons_of_mem _ hi)
      busy := ((busyThroughout_cons he).1 h.busy).2
      edges := hrest
      ends := hends.imp_right fun hw => ⟨hw.1, by simpa [State.afterSample] using hw.2⟩
      answers := fun k b hk => by
        simpa [State.afterSample] using hbytes (_ + k) b (by rwa [List.getElem?_append_right (Nat.le_add_right _ _),
          Nat.add_sub_cancel_left])
      levels := fun k l hk => by
        simpa [State.afterSample] using hlevels (_ + k) l (by rwa [List.getElem?_append_right (Nat.le_add_right _ _),
          Nat.add_sub_cancel_left]) }
  · simp [State.ranTo, State.afterSample, hb, hl, samplesTaken_add]

/-! ### The edge of a run as the edge of the state -/

/-- Outside a frame no exchange is requested, so that a legal edge takes a sample of one port at most (R111, R117). -/
theorem Regs.xferReq_eq_false_of_measChk {r : Regs} (hl : pcLegal r.seq r.fe = true) (hq : r.seq = .measChk) :
    r.xferReq = false := by
  rw [Regs.xferReq, fe_eq_idle_of_legal hl (by rw [hq]; rfl)]

/-- An edge of a busy block at which no exchange is left waiting is the next edge of the state. -/
theorem State.afterEdge_eq_afterSample {s : State} {inp : Inputs} {r1 : Regs} {ev1 : List Event}
    (hl : pcLegal s.regs.seq s.regs.fe = true) (hq : s.regs.seq ≠ .idle) (hr : inp.rst = false)
    (he : edge inp s.regs = some (r1, ev1)) (hb : ∀ b, byteReceived inp s.regs = [b] → s.env.answerAt 0 = some b)
    (hlvl : ∀ l, levelSampled inp s.regs = [l] → s.env.levelAt 0 = l)
    (hd : s.regs.xferReq = true → inp.xferDone = true) :
    s.waits = false ∧ s.afterEdge none = some (s.afterSample inp r1 ev1) := by
  have hanswer : s.regs.xferReq = true → s.env.answerAt 0 = some inp.xferRx := fun hx =>
    hb _ (by simp [byteReceived, hx, hd hx])
  have hlevel : s.regs.seq = .measChk → s.env.levelAt 0 = inp.drdyN := fun h => hlvl _ (by simp [levelSampled, h])
  have hsame : edge (s.inputs none) s.regs = edge inp s.regs :=
    inputsIgnored _ _ _ hr.symm (fun h => absurd h hq)
      (fun hx => by simp [State.inputs, hanswer hx, hd hx]) (fun h => hlevel h)
  have henv : s.envNext = s.env.used (byteReceived inp s.regs).length (levelSampled inp s.regs).length := by
    by_cases hx : s.regs.xferReq = true
    · have hc : s.regs.seq ≠ .measChk := fun h => by
        rw [Regs.xferReq_eq_false_of_measChk hl h] at hx; cases hx
      simp [State.envNext, byteReceived, levelSampled, hx, hd hx, hc, Env.dropAnswers_eq_used]
    · by_cases hc : s.regs.seq = .measChk
      · simp [State.envNext, byteReceived, levelSampled, hx, hc, Env.popLevel_eq_used]
      · simp [State.envNext, byteReceived, levelSampled, hx, hc]
  refine ⟨?_, ?_⟩
  · by_cases hx : s.regs.xferReq = true
    · simp [State.waits, hanswer hx]
    · simp [State.waits, hx]
  · rw [State.afterEdge_of_edge hq (hsame.trans he), henv]
    rfl

/-- An edge at which an exchange is left waiting changes nothing but `rsp_valid` (R114, R115). -/
theorem State.afterSample_of_wait {s : State} {inp : Inputs} {r1 : Regs} {ev1 : List Event}
    (hl : pcLegal s.regs.seq s.regs.fe = true) (hr : inp.rst = false) (he : edge inp s.regs = some (r1, ev1))
    (hx : s.regs.xferReq = true) (hd : inp.xferDone = false) : s.afterSample inp r1 ev1 = s.quiet := by
  have hf : s.regs.fe = .addr ∨ s.regs.fe = .data := by
    cases h : s.regs.fe <;> simp [Regs.xferReq, h] at hx ⊢
  have hq : s.regs.seq.runsFrame = true := by
    obtain h | h := hf <;> simpa [h, pcLegal] using hl
  have hc : s.regs.seq ≠ .measChk := (SeqState.ne_of_runsFrame hq).2.2
  obtain ⟨rfl, rfl⟩ : s.regs.hush = r1 ∧ [] = ev1 := by simpa using (edge_of_wait hr hq hf hd).symm.trans he
  simp [State.afterSample, byteReceived, levelSampled, hd, hc]
  rfl

/-- What going on answers does not depend on a response still signalled (R120). -/
theorem goOn_quiet (s : State) (hl : pcLegal s.regs.seq s.regs.fe = true) : goOn s.quiet = goOn s := by
  rw [goOn_of_legal s hl, goOn_of_legal s.quiet hl]
  rfl

/-! ### The step -/

/-- A run of edges never stands at Decode and Return of a kind R119 excludes, where it can neither end nor go on. -/
theorem State.Runs.not_stuck {s : State} {ins : List Inputs} {r : Regs} {ev : List Event} (h : s.Runs ins r ev)
    (hl : pcLegal s.regs.seq s.regs.fe = true) : s.stuck = false := by
  by_contra hs
  obtain ⟨hq, hk⟩ : s.regs.seq = .measDec ∧ kindRecognised s.regs.kind = false := by simpa [State.stuck] using hs
  have hf : s.regs.fe = .idle := fe_eq_idle_of_legal hl (by rw [hq]; rfl)
  cases ins with
  | nil =>
    obtain ⟨rfl, -⟩ : s.regs = r ∧ [] = ev := by simpa [Machine.edges] using h.edges
    obtain hi | ⟨hx, -⟩ := h.ends
    · rw [hq] at hi; cases hi
    · simp [hf] at hx
  | cons inp rest =>
    obtain ⟨r1, ev1, -, he, -⟩ := h.cons
    have hr := h.noReset inp List.mem_cons_self
    simp [edge, hr, hf, Regs.edgeOutside, hq, (kindRecognised_eq_false_iff _).1 hk] at he

/-- A sample that completes no exchange ends the step where it began (R114, R115). -/
theorem goOn_of_wait {s : State} (hl : pcLegal s.regs.seq s.regs.fe = true) (hf : s.regs.fe = .addr ∨ s.regs.fe = .data)
    (ha : s.env.answerAt 0 = none) : goOn s = .next (s.quiet.setEnv (s.env.dropAnswers 1)) := by
  rw [goOn_of_legal s hl]
  obtain hf | hf := hf <;> rw [hf] <;> dsimp only
  · rw [State.frameAddr_waits s.quiet _ _ ha, State.afterFrame_of_not_release _ _ (by simp [hf])]
    rfl
  · rw [State.frameData_waits s.quiet _ ha, State.afterFrame_of_not_release _ _ (by simp [hf])]
    rfl

/-- Where no edge of a run is left, and the operation has not ended, the step waits. -/
theorem goOn_of_runs_nil {s : State} {r : Regs} {ev : List Event} (hb : s.regs.seq ≠ .idle) (hv : s.quiet = s)
    (hl : pcLegal s.regs.seq s.regs.fe = true) (h : s.Runs [] r ev) : goOn s = .next (s.ranTo [] r ev) := by
  obtain ⟨rfl, rfl⟩ : s.regs = r ∧ [] = ev := by simpa [Machine.edges] using h.edges
  obtain ⟨hf, ha⟩ := h.ends.resolve_left hb
  rw [goOn_of_wait hl hf ha, hv]
  simp [State.ranTo, bytesReceived, levelsSampled, samplesTaken, hb, Env.dropAnswers_eq_used]
  rfl

/-- At idle no edge of a run is left. -/
theorem State.Runs.ranTo_of_idle {s : State} {ins : List Inputs} {r : Regs} {ev : List Event} (h : s.Runs ins r ev)
    (hi : s.regs.seq = .idle) : s.ranTo ins r ev = s := by
  cases ins with
  | nil =>
    obtain ⟨rfl, rfl⟩ : s.regs = r ∧ [] = ev := by simpa [Machine.edges] using h.edges
    simp [State.ranTo, bytesReceived, levelsSampled, samplesTaken, hi]
  | cons inp rest =>
    obtain ⟨r1, ev1, -, he, -⟩ := h.cons
    exact absurd hi ((busyThroughout_cons he).1 h.busy).1

/-- After an edge that leaves the block busy no response is signalled (R120). -/
theorem State.quiet_of_afterEdge {s t : State} {cmd : Option CmdWord} (he : s.afterEdge cmd = some t)
    (hb : t.regs.seq ≠ .idle) : t.quiet = t := by
  obtain ⟨ev, -, hg | hr⟩ := State.afterEdge_cases he
  · rw [State.quiet, ← hg.valid]
  · exact absurd hr.idle.1 hb

/-- What goes on by an edge answers what the rest of the run leads to, if going on after the edge does. -/
theorem State.ByEdge.eq_ranTo {s t : State} {cmd : Option CmdWord} {o : Host.Outcome State Fault Refusal}
    {rest : List Inputs} {r : Regs} {ev : List Event} (h : s.ByEdge cmd o) (he : s.afterEdge cmd = some t)
    (hw : s.waits = false) (hrun : t.Runs rest r ev)
    (hgo : t.regs.seq ≠ .idle → t.quiet = t → goOn t = .next (t.ranTo rest r ev)) :
    o = .next (t.ranTo rest r ev) := by
  obtain ⟨t', he', hend⟩ := h
  obtain rfl : t = t' := Option.some.inj (he.symm.trans he')
  have hstuck := hrun.not_stuck (State.legal_of_afterEdge he)
  obtain ⟨hst, ho⟩ | ⟨hn, -, ho⟩ := hend
  · obtain hi : t.regs.seq = .idle := by simpa [State.Stops, hw, hstuck] using hst
    rw [ho, hrun.ranTo_of_idle hi]
  · have hb : t.regs.seq ≠ .idle := fun hi => hn (.inr (.inl hi))
    rw [ho, hgo hb (State.quiet_of_afterEdge he hb)]

/-- An operation in progress goes on as the edges of any run with the same bytes and levels do, by induction on the run:
an edge that waits is passed over, any other is the next edge of the state. -/
theorem goOn_of_runs (ins : List Inputs) : ∀ {s : State} {r : Regs} {ev : List Event}, s.regs.seq ≠ .idle →
    pcLegal s.regs.seq s.regs.fe = true → (ins = [] → s.quiet = s) → s.Runs ins r ev →
    goOn s = .next (s.ranTo ins r ev) := by
  induction ins with
  | nil => exact fun hb hl hv h => goOn_of_runs_nil hb (hv rfl) hl h
  | cons inp rest ih =>
    intro s r ev hb hl _ h
    obtain ⟨r1, ev1, ev2, he, hbyte, hlvl, hrest, hto⟩ := h.cons
    have hr := h.noReset inp List.mem_cons_self
    rw [← hto]
    by_cases hd : s.regs.xferReq = true → inp.xferDone = true
    · obtain ⟨hw, hs⟩ := State.afterEdge_eq_afterSample hl hb hr he hbyte hlvl hd
      exact (goOn_byEdge none hb hl (h.not_stuck hl)).eq_ranTo hs hw hrest fun hb' hv =>
        ih hb' (State.legal_of_afterEdge hs) (fun _ => hv) hrest
    · obtain ⟨hx, hn⟩ := Classical.not_imp.1 hd
      have hwait := State.afterSample_of_wait hl hr he hx (by simpa using hn)
      rw [hwait] at hrest ⊢
      rw [← goOn_quiet s hl]
      exact ih hb hl (fun _ => rfl) hrest

/-- Settles O53: with no reset the step of a busy block is the operation going on. -/
theorem stepGoesOn : Obligations.StepGoesOn := by
  intro s ins r ev hl hb hr hne hrst hbusy hedges hends hans hlvl
  rw [step_of_busy s hr hb]
  exact goOn_of_runs ins (s := s.setEnv s.env.popCaller) hb hl (fun h => absurd h hne)
    ⟨hrst, hbusy, hedges, hends, hans, hlvl⟩

/-- Settles O51: the edge that accepts the word begins the operation, which then goes on as the edges do. -/
theorem refinement : Obligations.Refinement := by
  intro s inp ins r r1 ev ev1 hi hr hv hrst he hbusy hedges hends hans hlvl
  have haccept : s.regs.edgeAccept inp.cmd = (r1, ev1) := by
    rw [edge_of_idle hr hi.1 hi.2, if_pos hv] at he
    exact Option.some.inj he
  have hs := State.afterEdge_of_accept hi haccept
  have hrun : State.Runs { regs := r1, env := s.env, trace := ev1 } ins r ev :=
    ⟨hrst, hbusy, hedges, hends, hans, hlvl⟩
  exact (runCommand_byEdge hi).eq_ranTo hs (by simp [State.waits, Regs.xferReq, hi.2]) hrun fun hb hq =>
    goOn_of_runs ins hb (State.legal_of_afterEdge hs) (fun _ => hq) hrun

end Sys2Proof.Machine
end

section
/-! The statuses of an operation (spec/60_exceptions.md R130 to R133): which can still follow at each place, edge
by edge, and how a step from idle or from a busy place can end. -/

namespace Sys2Proof.Machine

/-! ### Statuses that can still follow -/

/-- Every status of `p` is one of `q`. -/
def Status.Within (p q : Status → Bool) : Prop := ∀ st, p st = true → q st = true

/-- The statuses the operation can end with from these registers: the one responded with, or those of the place. -/
def Regs.statuses (r : Regs) (st : Status) : Bool :=
  if r.rspValid then st == r.rspStatus else r.seq.mayEndWith st

theorem Status.Within.trans {p q r : Status → Bool} (h : Status.Within p q) (h' : Status.Within q r) :
    Status.Within p r := fun st hst => h' st (h st hst)

/-- There are six statuses (R130), so that a claim about given places is a finite one. -/
theorem Status.within_of_listed {p q : Status → Bool}
    (h : ∀ st ∈ [Status.ok, .notReady, .fault, .invalidKind, .linkFail, .badOp], p st = true → q st = true) :
    Status.Within p q := fun st => h st (by cases st <;> simp)

theorem Regs.statuses_of_not_valid {r : Regs} (h : r.rspValid = false) : r.statuses = r.seq.mayEndWith := by
  funext st
  simp [Regs.statuses, h]

section
variable {r : Regs} {p : Status → Bool}

theorem Regs.edgeRespond_within {st : Status} {d : RspData} (h : p st = true) :
    Status.Within (r.edgeRespond st d).1.statuses p := by
  intro st' h'
  obtain rfl : st' = st := by simpa [Regs.statuses, Regs.edgeRespond] using h'
  exact h

theorem Regs.edgeStart_within {q : SeqState} (h : Status.Within q.mayEndWith p) :
    Status.Within (r.edgeStart q).1.statuses p := h

/-- The edge that ends `F_RELEASE` leaves no new status possible (R116). -/
theorem Regs.edgeRelease_within {o : Regs × List Event} (h : r.edgeRelease = some o) :
    Status.Within o.1.statuses r.seq.mayEndWith := by
  cases hq : r.seq <;> simp only [Regs.edgeRelease, hq, Option.some.injEq, reduceCtorEq] at h <;> subst h
  case rdreg | wrreg | initLL | hasflt => exact Regs.edgeRespond_within rfl
  case initCW | initHM | initHL | initLM | measLsb => exact Regs.edgeStart_within (Status.within_of_listed (by decide))
  case initCR =>
    split_ifs
    · exact Regs.edgeStart_within (Status.within_of_listed (by decide))
    · exact Regs.edgeRespond_within rfl
  case measMsb => exact fun _ h => h

/-- The edge of a busy state outside any frame leaves no new status possible (R117 to R119). -/
theorem Regs.edgeOutside_within {inp : Inputs} {o : Regs × List Event} (hb : r.seq ≠ .idle)
    (h : r.edgeOutside inp = some o) : Status.Within o.1.statuses r.seq.mayEndWith := by
  cases hq : r.seq <;> simp only [Regs.edgeOutside, hq, Option.some.injEq, reduceCtorEq] at h
  case idle => exact absurd hq hb
  case measChk =>
    subst h
    split_ifs
    · exact Regs.edgeRespond_within (r := r) (d := 0x0000#16) rfl
    · exact Regs.edgeStart_within (r := r) (Status.within_of_listed (by decide))
  case measFlt =>
    subst h
    split_ifs
    · exact Regs.edgeRespond_within rfl
    · exact Status.within_of_listed (p := SeqState.measDec.mayEndWith) (by decide)
  case measDec => split_ifs at h <;> cases h <;> exact Regs.edgeRespond_within rfl

/-- No edge of a busy block makes a new status possible (R133). -/
theorem edge_within {inp : Inputs} {o : Regs × List Event} (hr : inp.rst = false) (hb : r.seq ≠ .idle)
    (h : edge inp r = some o) : Status.Within o.1.statuses r.seq.mayEndWith := by
  simp only [edge, hr, Bool.false_eq_true, if_false] at h
  cases hf : r.fe <;> simp only [hf] at h
  case idle => exact Regs.edgeOutside_within hb h
  case release => exact Regs.edgeRelease_within h
  case select | addr | data => split_ifs at h <;> cases h <;> exact fun _ h => h

/-- The edge that accepts RDMEAS goes on to the ready check, or refuses the kind (R91, R112). -/
theorem Regs.edgeAccept_within_of_rdmeas {w : CmdWord} (h : cmdOp w = 0x5#4)
    (hchk : Status.Within SeqState.measChk.mayEndWith p)
    (hkind : ¬(cmdKind w = 0x0#4 ∨ cmdKind w = 0x1#4) → p .invalidKind = true) :
    Status.Within (r.edgeAccept w).1.statuses p := by
  by_cases hk : cmdKind w = 0x0#4 ∨ cmdKind w = 0x1#4
  · have he : (r.edgeAccept w).1 = { r.accepting w with seq := .measChk } := by
      simp [Regs.edgeAccept_eq, Regs.accepting, h, hk]
    rw [he]
    exact hchk
  · have he : r.edgeAccept w = (r.accepting w).edgeRespond .invalidKind 0x0000#16 := by
      simp [Regs.edgeAccept_eq, Regs.accepting, h, hk]
    rw [he]
    exact Regs.edgeRespond_within (hkind hk)

/-- The edge that accepts the word of a command leaves only the statuses of its row (R112, R130). -/
theorem Regs.edgeAccept_within {i : Instr} {w : CmdWord} (h : encode i = .cmd w) :
    Status.Within (r.edgeAccept w).1.statuses (mayEndWith i) := by
  have start : ∀ (op : Nibble) (q : SeqState), cmdOp w = op →
      ((r.accepting w).op = op → r.edgeAccept w = (r.accepting w).edgeStart q) → q.mayEndWith = mayEndWith i →
      Status.Within (r.edgeAccept w).1.statuses (mayEndWith i) := fun op q hop he hq => by
    rw [he hop, ← hq]
    exact Regs.edgeStart_within fun _ h => h
  cases i <;> cases h
  case rdreg => exact start 0x1#4 .rdreg (packCmd_fields _ _ _ _ _).1 (fun h => by simp [Regs.edgeAccept_eq, h]) rfl
  case wrreg => exact start 0x2#4 .wrreg (packCmd_fields _ _ _ _ _).1 (fun h => by simp [Regs.edgeAccept_eq, h]) rfl
  case init => exact start 0x3#4 .initCW (packCmd_fields _ _ _ _ _).1 (fun h => by simp [Regs.edgeAccept_eq, h]) rfl
  case hasflt => exact start 0x4#4 .hasflt (packCmd_fields _ _ _ _ _).1 (fun h => by simp [Regs.edgeAccept_eq, h]) rfl
  case rdmeas =>
    exact Regs.edgeAccept_within_of_rdmeas (packCmd_fields _ _ _ _ _).1
      (fun _ h => Bool.or_eq_true_iff.2 (.inl h)) fun _ => rfl
  case rdraw | rdtemp =>
    exact Regs.edgeAccept_within_of_rdmeas (packCmd_fields _ _ _ _ _).1 (fun _ h => h)
      fun hk => absurd (by simp [packCmd_fields]) hk

end

/-! ### How a step can end -/

/-- The state after a step of an operation that could end with the statuses `p`: it has responded with one of them, as
R131 and R132 say, or it is busy at a place from which only they can follow. -/
structure State.EndsWithin (t : State) (p : Status → Bool) : Prop where
  responded : t.regs.rspValid = true →
    p t.regs.rspStatus = true ∧ (t.regs.rspStatus ≠ .ok → t.regs.rspData = 0x0000#16) ∧
    t.trace.getLast? = some (.rsp t.regs.rspStatus t.regs.rspData) ∧ t.Idle
  busy : t.regs.rspValid = false → t.regs.seq ≠ .idle ∧ ∀ st, t.regs.seq.mayEndWith st = true → p st = true

section
variable {cmd : Option CmdWord} {s t : State} {p : Status → Bool}

/-- One edge: it goes on, or ends the operation. -/
theorem State.endsWithin_of_afterEdge (hc : s.regs.seq = .idle → cmd.isSome = true) (he : s.afterEdge cmd = some t)
    (hp : Status.Within t.regs.statuses p) : t.EndsWithin p := by
  obtain ⟨ev, ht, hg | hr⟩ := State.afterEdge_cases he
  · refine ⟨fun hv => absurd (hg.valid.symm.trans hv) Bool.false_ne_true, fun hv => ⟨fun hq => ?_, ?_⟩⟩
    · obtain ⟨hs, hn⟩ := hg.idle hq
      exact absurd (hn.symm.trans (hc hs)) Bool.false_ne_true
    · rwa [Regs.statuses_of_not_valid hv] at hp
  · refine ⟨fun _ => ⟨hp _ ?_, hr.dataZero, ?_, hr.idle⟩,
      fun hv => absurd (hv.symm.trans hr.valid) Bool.false_ne_true⟩
    · simp [Regs.statuses, hr.valid]
    · rw [ht, List.getLast?_append, hr.last]; rfl

/-- An edge of a busy block ends within the statuses of its place. -/
theorem State.endsWithin_of_busy_edge (hb : s.regs.seq ≠ .idle) (he : s.afterEdge cmd = some t) :
    t.EndsWithin s.regs.seq.mayEndWith := by
  obtain ⟨o, ho, ht⟩ := Option.map_eq_some_iff.1 he
  refine State.endsWithin_of_afterEdge (fun hq => absurd hq hb) he ?_
  rw [← ht]
  exact edge_within rfl hb ho

theorem State.EndsWithin.mono {q : Status → Bool} (h : t.EndsWithin p) (hpq : Status.Within p q) :
    t.EndsWithin q where
  responded hv := by
    obtain ⟨hst, hrest⟩ := h.responded hv
    exact ⟨hpq _ hst, hrest⟩
  busy hv := by
    obtain ⟨hb, hst⟩ := h.busy hv
    exact ⟨hb, Status.Within.trans hst hpq⟩

/-- A state that is not idle has not responded. -/
theorem State.EndsWithin.within_of_busy (h : t.EndsWithin p) (hb : t.regs.seq ≠ .idle) :
    Status.Within t.regs.seq.mayEndWith p := by
  cases hv : t.regs.rspValid with
  | true => exact absurd (h.responded hv).2.2.2.1 hb
  | false => exact (h.busy hv).2

/-- A run of edges ends within the statuses its first edge leaves. -/
theorem State.Goes.endsWithin (hg : State.Goes cmd s t)
    (hfirst : ∀ u, s.afterEdge cmd = some u → u.EndsWithin p) : t.EndsWithin p := by
  induction hg with
  | last he _ => exact hfirst _ he
  | @more s u _ he hn _ ih =>
    have hb : u.regs.seq ≠ .idle := fun hq => hn (.inr (.inl hq))
    have hw : Status.Within u.regs.seq.mayEndWith p := (hfirst _ he).within_of_busy hb
    exact ih fun v hv => (State.endsWithin_of_busy_edge hb hv).mono hw

/-- A command run from idle ends within the statuses of its row; a frame cannot be run there. -/
theorem exec_endsWithin {i : Instr} (hi : s.Idle) (h : exec i s = .next t) : t.EndsWithin (mayEndWith i) := by
  have command : ∀ {w : CmdWord}, encode i = .cmd w → t.EndsWithin (mayEndWith i) := fun {w} hw => by
    have hrun : runBlock (some w) s = .next t := by
      rw [runBlock_of_idle _ s hi]
      exact (runCommand_of_encode hw s).trans h
    refine (goes_of_runBlock (by rw [hi.1, hi.2]; rfl) hrun).endsWithin fun u hu => ?_
    refine State.endsWithin_of_afterEdge (fun _ => rfl) hu ?_
    cases (State.afterEdge_of_accept hi rfl).symm.trans hu
    exact Regs.edgeAccept_within hw
  have frame : ∀ {ab db : Byte}, exec i s = runFrame ab db s → t.EndsWithin (mayEndWith i) := fun he => by
    rw [he, runFrame_of_excluded _ _ (.inr hi.2)] at h
    cases h
  cases i with
  | rdFrame | wrFrame => exact frame rfl
  | _ => exact command rfl

/-- The step of a busy block, with no reset, ends within the statuses of its place. -/
theorem step_endsWithin (hb : s.regs.seq ≠ .idle) (hr : (s.env.callerAt 0).rst = false) (h : step s = .next t) :
    t.EndsWithin s.regs.seq.mayEndWith :=
  (goes_of_step hr h).2.endsWithin fun _ he => State.endsWithin_of_busy_edge (s := s.setEnv s.env.popCaller) hb he

end

/-- Settles O25: a command from idle and the step of a busy block are runs of edges, no edge of which makes a new status
possible. -/
theorem statusesRaised : Obligations.StatusesRaised :=
  ⟨fun _ _ _ hi h => (exec_endsWithin hi h).responded, fun _ _ _ hi h => (exec_endsWithin hi h).busy,
    fun _ _ _ hb hr h => ⟨(step_endsWithin hb hr h).responded, (step_endsWithin hb hr h).busy⟩⟩

end Sys2Proof.Machine
end

section
/-! Reset, the hung bus and the busy command port (spec/70_reset_and_hazards.md R140, R151, R153), and the response every
command comes to when the exchanges complete (R151, spec/60_exceptions.md R131). -/

namespace Sys2Proof.Machine

/-! ### Reset and the command port -/

/-- Settles O30: with the reset line high the step is `resetBlock`, which keeps nothing but the environment. -/
theorem stepReset : Obligations.StepReset := by
  intro s h
  rw [step_eq, if_pos h]
  rfl

/-- Settles O47: the edge leads to the reset registers, of which each value is read off. -/
theorem edgeReset : Obligations.EdgeReset := fun _ _ h =>
  ⟨Regs.reset, if_pos h, rfl, rfl, rfl, rfl, rfl, rfl, rfl, rfl, rfl, rfl, rfl, rfl, rfl, rfl, rfl, rfl⟩

/-- Settles O33: both steps are the operation going on from one state, the caller's entry being used up. -/
theorem commandWhileBusyIgnored : Obligations.CommandWhileBusyIgnored := by
  intro s c c' rest hb
  have going (c : Option CmdWord) :
      step { s with env := { s.env with caller := { rst := false, cmd := c } :: rest } } =
        goOn (s.setEnv { s.env with caller := rest, callerTick := s.env.callerTick + 1 }) := step_of_busy _ rfl hb
  rw [going c, going c']

/-! ### The hung bus -/

/-- A step whose sample completes no exchange clears `rsp_valid` and does nothing else (R64, R151). -/
theorem step_of_wait {s : State} (hq : s.regs.seq.runsFrame = true) (hf : s.regs.fe = .addr ∨ s.regs.fe = .data)
    (hr : (s.env.callerAt 0).rst = false) (ha : s.env.answerAt 0 = none) :
    step s = .next (s.quiet.setEnv (s.env.popCaller.dropAnswers 1)) := by
  have hl : pcLegal s.regs.seq s.regs.fe = true := by obtain hf | hf := hf <;> rw [hf] <;> exact hq
  rw [step_of_busy s hr (SeqState.ne_of_runsFrame hq).1]
  exact goOn_of_wait (s := s.setEnv s.env.popCaller) hl hf ha

/-- The hung bus for `n` steps, by induction on them: the first leaves a state that waits with one sample used. -/
theorem run_of_waits (n : Nat) : ∀ {s : State}, s.regs.seq.runsFrame = true → s.regs.fe = .addr ∨ s.regs.fe = .data →
    (∀ k, k < n → s.env.answerAt k = none ∧ (s.env.callerAt k).rst = false) →
    ∃ t, Host.Core.run Sys2Proof.core n s = .next t ∧ t.trace = s.trace ∧
      t.regs = { s.regs with rspValid := s.regs.rspValid && n == 0 } := by
  induction n with
  | zero => exact fun {s} _ _ _ => ⟨s, rfl, rfl, by simp⟩
  | succ n ih =>
    intro s hq hf hw
    obtain ⟨ha, hr⟩ := hw 0 n.succ_pos
    obtain ⟨t, hrun, htrace, hregs⟩ := ih (s := s.quiet.setEnv (s.env.popCaller.dropAnswers 1)) hq hf fun k hk => by
      simpa [Nat.add_comm] using hw (k + 1) (Nat.succ_lt_succ hk)
    exact ⟨t, (run_succ_of_next n (step_of_wait hq hf hr ha)).trans hrun, htrace, by simpa using hregs⟩

/-- Settles O34: the registers the outputs depend on are kept. -/
theorem hungBus : Obligations.HungBus := by
  intro n s hq hf hw
  obtain ⟨t, hrun, htrace, hregs⟩ := run_of_waits n hq hf hw
  have hready : s.regs.cmdReady = false := by simp [Regs.cmdReady, (SeqState.ne_of_runsFrame hq).1]
  refine ⟨t, hrun, htrace, hregs, ?_, ?_, ?_, ?_⟩ <;> rw [hregs]
  · obtain hf | hf := hf <;> simp [Regs.csN, hf]
  · obtain hf | hf := hf <;> simp [Regs.xferReq, hf]
  · rfl
  · exact hready

/-! ### Every command responds -/

/-- Exchanges that complete do so with some bytes. -/
theorem State.Completes.answers {s : State} {n : Nat} (h : s.Completes n) :
    ∃ b : Nat → Byte, ∀ m, m ≤ n → s.Answers ((List.range m).map b) := by
  refine ⟨fun k => (s.env.answerAt k).getD 0, fun m hm k b hk => ?_⟩
  obtain ⟨hkm, rfl⟩ : k < m ∧ (s.env.answerAt k).getD 0 = b := by
    simpa [List.getElem?_eq_some_iff] using hk
  obtain ⟨c, hc⟩ := Option.isSome_iff_exists.1 (h k (hkm.trans_le hm))
  rw [hc, Option.getD_some]

/-- From `s` the instruction runs to its response in one step and leaves the block idle. -/
def RespondsAtOnce (i : Instr) (s : State) : Prop := ∃ t, exec i s = .next t ∧ t.Idle ∧ t.regs.rspValid = true

section
variable {s : State} (hi : s.Idle)
include hi

/-- INIT responds whether or not the byte read back is the one written (R81, R82). -/
theorem init_respondsAtOnce {b : Nat → Byte} (ha : ∀ m, m ≤ 12 → s.Answers ((List.range m).map b)) (kind : Nibble)
    (ign : Bit) (addr : Addr) (wdata : Byte) : RespondsAtOnce (.init kind ign addr wdata) s := by
  obtain ⟨-, verified, failed⟩ := initResult s kind ign addr wdata (b 0) (b 1) (b 2) (b 3) (b 4) (b 5) (b 6) (b 7) (b 8)
    (b 9) (b 10) (b 11) hi
  by_cases hb : b 3 = 0x80#8
  · have h12 : s.Answers [b 0, b 1, b 2, b 3, b 4, b 5, b 6, b 7, b 8, b 9, b 10, b 11] := ha 12 le_rfl
    exact ⟨_, verified (hb ▸ h12), ⟨rfl, rfl⟩, rfl⟩
  · exact ⟨_, failed (ha 4 (by decide)) hb, ⟨rfl, rfl⟩, rfl⟩

/-- RDMEAS, RDRAW and RDTEMP respond: at once where the kind is not recognised, else by the data-ready level at once or
after two frames (R90 to R93). -/
theorem rdmeas_respondsAtOnce {r1 l r2 m : Byte} (ha : s.Answers [r1, l, r2, m]) {i : Instr} {kind : Nibble} {ign : Bit}
    {addr : Addr} {wdata : Byte} (he : i.expand = .rdmeas kind ign addr wdata) : RespondsAtOnce i s := by
  obtain ⟨-, unrecognised, notReady, ready⟩ := rdmeasResult i s kind ign addr wdata r1 l r2 m _ hi he rfl
  by_cases hk : kind = 0x0#4 ∨ kind = 0x1#4
  · by_cases hl : s.env.levelAt 0 = 1#1
    · exact ⟨_, notReady hk hl, ⟨rfl, rfl⟩, rfl⟩
    · obtain ⟨status, data, h, -⟩ := ready hk (level_zero_of_ne_one hl) ha
      exact ⟨_, h, ⟨rfl, rfl⟩, rfl⟩
  · obtain ⟨h0, h1⟩ := not_or.1 hk
    exact ⟨_, unrecognised h0 h1, ⟨rfl, rfl⟩, rfl⟩

end

/-- Settles O26: each command by what it answers when its exchanges are answered; INIT, the longest, takes twelve. -/
theorem commandsRespond : Obligations.CommandsRespond := by
  intro i s hc hi h
  obtain ⟨b, ha⟩ := h.answers
  have h2 : s.Answers [b 0, b 1] := ha 2 (by decide)
  have h4 : s.Answers [b 0, b 1, b 2, b 3] := ha 4 (by decide)
  cases i with
  | rdreg kind ign addr wdata => exact ⟨_, (rdregResult s kind ign addr wdata _ _ hi h2).2, ⟨rfl, rfl⟩, rfl⟩
  | wrreg kind ign addr wdata => exact ⟨_, (wrregResult s kind ign addr wdata _ _ hi h2).2, ⟨rfl, rfl⟩, rfl⟩
  | init kind ign addr wdata => exact init_respondsAtOnce hi ha kind ign addr wdata
  | hasflt kind ign addr wdata => exact ⟨_, (hasfltResult s kind ign addr wdata _ _ hi h2).2, ⟨rfl, rfl⟩, rfl⟩
  | rdmeas | rdraw | rdtemp => exact rdmeas_respondsAtOnce hi h4 rfl
  | rdFrame | wrFrame => cases hc

end Sys2Proof.Machine
end
